-- ==== Sys2Proof/Word.lean ====
section
/-! DEFINITION. The widths of the spec's values (00_scope.md R8, 10_state.md R20). -/

namespace Sys2Proof

/-- A byte: 8 bits (R8). -/
abbrev Byte := BitVec 8

/-- A checksum or the accumulator: 16 bits (R13, R29). -/
abbrev Word16 := BitVec 16

/-- The width of a measurement slot: `SLOT_W`, at least 24, decided 32 (R7, R26; log 11). -/
abbrev slotW : Nat := 32

/-- One (channel, phase) cell of the MeasurementTriple (R26). -/
abbrev Slot := BitVec slotW

/-- The energy counter: 32 bits (R27). -/
abbrev Word32 := BitVec 32

/-- An operation-request word `OPREQ`: 19 bits (R80). -/
abbrev RequestWord := BitVec 19

end Sys2Proof
end

