-- ==== Sys2Proof/Config.lean ====
section
/-! DEFINITION. What is fixed when the block is built, and the free value. The literals of 00_scope.md R6 stand in
Machine/Constants.lean, where a repair can mend them. -/

namespace Sys2Proof

/-- The open parameters of 00_scope.md R7: the three command numbers of RDVAL. A model takes them as an argument:
State holds them, no step writes them, and statements hold for every value of them (log 4). -/
structure Params where
  cmdVoltage : Byte
  cmdCurrent : Byte
  cmdPower : Byte
  deriving DecidableEq, Repr

/-- R7's constraint: the three are pairwise different. -/
def Params.wf (p : Params) : Bool :=
  p.cmdVoltage != p.cmdCurrent && p.cmdVoltage != p.cmdPower && p.cmdCurrent != p.cmdPower

/-- R7's reference instantiation, which the spec uses for its test vectors only.
DESIGN CHOICE (log 4): State.reset holds it; no statement about an operation rests on it. -/
def Params.reference : Params := { cmdVoltage := 0x01, cmdCurrent := 0x02, cmdPower := 0x03 }

/-- What a `TxWrite` returns (20_memory.md R54): the environment chooses. -/
inductive TxAnswer where
  | ok
  | fail
  deriving DecidableEq, Repr, Inhabited

/-- FREE VALUE (log 3): the answer to the n-th `TxWrite` when the state lists none. R54 says that one of the two
results is returned and leaves to the environment which. -/
opaque Config.freeTxAnswer : Nat → TxAnswer

end Sys2Proof
end

