-- ==== Sys2Proof/Syntax.lean ====
section
/-! DEFINITION. The operations, micro-steps and frames of spec/opcode_table.json as one inductive, and the words by which
each reaches its port. -/

namespace Sys2Proof

/-- The three bytes of a measurement field in wire order (30_encoding.md R92). -/
structure Field3 where
  b0 : Byte
  b1 : Byte
  b2 : Byte
  deriving DecidableEq, Repr

/-- One constructor per mnemonic of spec/opcode_table.json. A request's constructor carries the fields of OPREQ that
its row leaves open; ignored fields are among them, because acceptance loads them (10_state.md R21; log 19). -/
inductive Instr where
  /-- SESS.OPEN, op 1, command 0x01 (R130). -/
  | sessOpen (address : Byte)
  /-- SESS.CMD, op 1, any other command (R131). -/
  | sessCmd (address command : Byte)
  /-- CHKRDY, op 2, both fields ignored (R151). -/
  | chkrdy (address command : Byte)
  /-- REQ.INST, op 3, command 1 to 4 (R132). -/
  | reqInst (address command : Byte)
  /-- REQ.ENRG, op 3, command 0 or 5 to 255 (R133). -/
  | reqEnrg (address command : Byte)
  /-- RDVAL.V, op 4, command CMD_VOLTAGE, address ignored (R154). -/
  | rdvalV (address : Byte)
  /-- RDVAL.I, op 4, command CMD_CURRENT, address ignored (R155). -/
  | rdvalI (address : Byte)
  /-- RDVAL.P, op 4, command CMD_POWER, address ignored (R156). -/
  | rdvalP (address : Byte)
  /-- The request op 4 whose command is none of the three (R93, R209). -/
  | illegalOperand (address command : Byte)
  /-- RDENERGY, op 5, both fields ignored (R158). -/
  | rdenergy (address command : Byte)
  /-- The request with a reserved op: 0, 6 or 7 (R93, R208). -/
  | illegalOperation (op : BitVec 3) (address command : Byte)
  /-- CRC16 on the checksum port (R110, R118). -/
  | crc16 (message : List Byte)
  /-- CRC.INIT, a micro-step (R111). -/
  | crcInit
  /-- CRC.BYTE, a micro-step (R112). -/
  | crcByte (b : Byte)
  /-- CRC.STEP, a micro-step (R113). -/
  | crcStep
  /-- DEC24, a sub-operation: bytes in wire order (R180). -/
  | dec24 (b0 b1 b2 : Byte)
  /-- DEC24P, a sub-operation: bytes in wire order (R181). -/
  | dec24p (b0 b1 b2 : Byte)
  /-- DEC32, a sub-operation: frame bytes 1 to 4 in wire order (R183). -/
  | dec32 (e1 e2 e3 e4 : Byte)
  /-- F-OPEN, the frame SESS.OPEN builds (R84). -/
  | fOpen (address : Byte)
  /-- F-SESS, the frame SESS.CMD builds (R85). -/
  | fSess (address command : Byte)
  /-- F-REQ with the pair (0x05, 0x00), built by REQ.INST (R86). -/
  | fReqInst (address command : Byte)
  /-- F-REQ with the pair (0x08, 0x16), built by REQ.ENRG (R86). -/
  | fReqEnrg (address command : Byte)
  /-- F-ACK, parsed by CHKRDY (R87): the unchecked byte 0, the status byte, the trailer received. -/
  | fAck (x status : Byte) (trailer : Word16)
  /-- F-MEAS12, parsed by RDVAL.V and RDVAL.I (R88). -/
  | fMeas12 (x : Byte) (phase0 phase1 phase2 : Field3) (trailer : Word16)
  /-- F-MEAS15, parsed by RDVAL.P (R89): `skipped` stands at indices 1 to 3. -/
  | fMeas15 (x : Byte) (skipped phase0 phase1 phase2 : Field3) (trailer : Word16)
  /-- F-ENERGY, parsed by RDENERGY (R90): `rest` is the twelve bytes at indices 5 to 16. -/
  | fEnergy (x e1 e2 e3 e4 : Byte) (rest : List Byte) (trailer : Word16)
  deriving DecidableEq, Repr

/-- The six rows of the table's format INTERNAL: they have no operation code and no port, only operand bytes. -/
inductive Micro where
  | crcInit
  | crcByte
  | crcStep
  | dec24
  | dec24p
  | dec32
  deriving DecidableEq, Repr

/-- An encoded instruction as it stands on the port it belongs to (92_eei_decisions.md D2): a request word, a message
on the checksum port, the operand bytes of a micro-step, a frame handed to the transport, a frame from the transport. -/
inductive PortWord where
  | request (w : RequestWord)
  | message (s : List Byte)
  | micro (m : Micro) (operands : List Byte)
  | txFrame (s : List Byte)
  | rxFrame (s : List Byte)
  deriving DecidableEq, Repr

/-- Why a port word is no instruction. A request word and a message always are one (R82, R118). -/
inductive DecodeError where
  /-- No frame format of that direction has this length (R83, R95). -/
  | noFormatOfThisLength
  /-- A request frame's trailer is not the checksum of the bytes before it (R83). -/
  | wrongTrailer
  /-- A request frame's fixed byte or command has a value its format does not allow (R84 to R86). -/
  | wrongFixedByte
  /-- A micro-step got another number of operand bytes than its row has. -/
  | wrongOperandCount
  deriving DecidableEq, Repr

end Sys2Proof
end

