-- ==== Sys2Proof/Machine/Constants.lean ====
section
/-! DEFINITION. The constants of 00_scope.md R6, under the spec's names, each in one place, and the conditions a request
is selected by. -/

namespace Sys2Proof.Machine

/-- `CRC_INIT`. -/
abbrev crcInitValue : Word16 := 0xFFFF#16
/-- `CRC_POLY`. -/
abbrev crcPoly : Word16 := 0xA001#16
/-- `CMD_OPEN`. -/
abbrev cmdOpen : Byte := 0x01#8
/-- `ACCESS_LEVEL`. -/
abbrev accessLevel : Byte := 0x01#8
/-- `PASSWORD_BYTE`. -/
abbrev passwordByte : Byte := 0x01#8
/-- `PAIR_INST`. -/
abbrev pairInst : Byte × Byte := (0x05#8, 0x00#8)
/-- `PAIR_ENRG`. -/
abbrev pairEnrg : Byte × Byte := (0x08#8, 0x16#8)
/-- `LEN_OPEN`. -/
abbrev lenOpen : Nat := 11
/-- `LEN_SESS`. -/
abbrev lenSess : Nat := 4
/-- `LEN_REQ`. -/
abbrev lenReq : Nat := 6
/-- `LEN_ACK`. -/
abbrev lenAck : Nat := 4
/-- `LEN_MEAS_P`. -/
abbrev lenMeasP : Nat := 15
/-- `LEN_MEAS_VI`. -/
abbrev lenMeasVI : Nat := 12
/-- `LEN_ENERGY`. -/
abbrev lenEnergy : Nat := 19
/-- `SHIFT_P`. -/
abbrev shiftP : Nat := 3
/-- `SHIFT_VI`. -/
abbrev shiftVI : Nat := 0
/-- `POWER_MASK`. -/
abbrev powerMask : Byte := 0x0F#8
/-- `POWER_DIV`. -/
abbrev powerDiv : Nat := 100
/-- `SENTINEL16`, zero-extended to a slot (R26). -/
abbrev sentinelSlot : Slot := 0x0000FFFF#32
/-- `SENTINEL32`. -/
abbrev sentinel32 : Word32 := 0xFFFFFFFF#32

/-- The size of TXBUF (R30, R50). -/
abbrev txSize : Nat := 11
/-- The size of RXBUF (R30, R50). -/
abbrev rxSize : Nat := 19

/-! The values of `STATUS` (10_state.md R25); 7 is reserved and never written. -/

/-- `ST_NONE`. -/
abbrev stNone : BitVec 3 := 0#3
/-- `ST_OK`. -/
abbrev stOk : BitVec 3 := 1#3
/-- `ST_CHECKSUM_MISMATCH`. -/
abbrev stChecksumMismatch : BitVec 3 := 2#3
/-- `ST_DEVICE_STATUS_ERROR`. -/
abbrev stDeviceStatusError : BitVec 3 := 3#3
/-- `ST_TRANSPORT_FAILURE`. -/
abbrev stTransportFailure : BitVec 3 := 4#3
/-- `ST_ILLEGAL_OPERATION`. -/
abbrev stIllegalOperation : BitVec 3 := 5#3
/-- `ST_ILLEGAL_OPERAND`. -/
abbrev stIllegalOperand : BitVec 3 := 6#3

/-! The operation codes (30_encoding.md R81). -/

/-- `StartStopSession`. -/
abbrev opSess : BitVec 3 := 1#3
/-- `CheckReady`. -/
abbrev opChkrdy : BitVec 3 := 2#3
/-- `RequestMeasure`. -/
abbrev opReq : BitVec 3 := 3#3
/-- `ReadCurrentValues`. -/
abbrev opRdval : BitVec 3 := 4#3
/-- `ReadEnergy`. -/
abbrev opRdenergy : BitVec 3 := 5#3

end Sys2Proof.Machine

/-! The selecting conditions on a request's fields (30_encoding.md R82, R93). -/

namespace Sys2Proof

/-- `0 < command < 5` on the unsigned byte (R82, R91). -/
def instantaneous (c : Byte) : Bool := 0 < c.toNat && c.toNat < 5

/-- `command` is none of the three parameters (R93). -/
def Params.noChannel (p : Params) (c : Byte) : Bool :=
  c != p.cmdVoltage && c != p.cmdCurrent && c != p.cmdPower

/-- A reserved operation code: 0, 6 or 7 (R93). -/
def reservedOp (op : BitVec 3) : Bool := op == 0#3 || op == 6#3 || op == 7#3

end Sys2Proof
end

