-- ==== Sys2Proof/Machine/Crc.lean ====
section
/-! DEFINITION. The Checksum Engine as a pure function (40_crc16.md R110 to R116) and the trailer functions of 00_scope.md
R13. -/

namespace Sys2Proof.Machine

/-- `LO(c) = c[7:0]` (R13). -/
def lo (c : Word16) : Byte := c.extractLsb' 0 8

/-- `HI(c) = c[15:8]` (R13). -/
def hi (c : Word16) : Byte := c.extractLsb' 8 8

/-- The 16-bit value a trailer `[low, high]` carries (R58). -/
def ofTrailer (low high : Byte) : Word16 := high ++ low

/-- CRC.STEP on an accumulator value (R113): the test reads bit 0 before the logical shift. -/
def crcStep (acc : Word16) : Word16 :=
  if acc.getLsbD 0 then (acc >>> 1) ^^^ crcPoly else acc >>> 1

/-- `k` times CRC.STEP. -/
def crcSteps : Nat → Word16 → Word16
  | 0, acc => acc
  | k + 1, acc => crcSteps k (crcStep acc)

/-- CRC.BYTE on an accumulator value (R112): XOR into the low byte, then exactly 8 steps. -/
def crcByte (acc : Word16) (b : Byte) : Word16 := crcSteps 8 (acc ^^^ b.setWidth 16)

/-- The accumulator after the bytes of `s`, first byte first, from `acc` (the loop of R110). -/
def crcFrom (acc : Word16) : List Byte → Word16
  | [] => acc
  | b :: s => crcFrom (crcByte acc b) s

/-- `CRC16(s)` (R110, R111, R114): from 0xFFFF, no final XOR. -/
def crc16 (s : List Byte) : Word16 := crcFrom crcInitValue s

/-- `TRAILER(s)` (R13, R115): low byte first. -/
def trailer (s : List Byte) : List Byte := [lo (crc16 s), hi (crc16 s)]

/-- `FRAME(s) = s ++ TRAILER(s)` (R13). -/
def frame (s : List Byte) : List Byte := s ++ trailer s

end Sys2Proof.Machine
end

