-- ==== Sys2Proof/Machine/Memory.lean ====
section
/-! DEFINITION. The two frame buffers' storage (20_memory.md R50 to R53): a list of (index, byte) cells in one canonical
form, indices strictly rising and no cell equal to 0x00, which is what an unlisted index reads as (R33, R53; log 12). -/

namespace Sys2Proof.Machine

/-- A buffer's contents. -/
abbrev Memory := List Host.Cell

/-- What an unlisted index reads as: the reset and zero-fill value (R33, R53). -/
abbrev Memory.unlisted : Byte := 0x00#8

/-- The canonical form, with every index at least `from`. -/
def Memory.wfFrom : Nat → Memory → Bool
  | _, [] => true
  | start, (j, w) :: m => decide (start ≤ j) && w != Memory.unlisted && Memory.wfFrom (j + 1) m

/-- The canonical form. -/
def Memory.wf (m : Memory) : Bool := Memory.wfFrom 0 m

/-- Every listed index lies below `size`. -/
def Memory.within (size : Nat) (m : Memory) : Bool := m.all fun c => decide (c.1 < size)

/-- `BUF[i]` (R51): one byte; a read changes nothing. -/
def Memory.read : Memory → Nat → Byte
  | [], _ => Memory.unlisted
  | (j, w) :: m, i => if i = j then w else Memory.read m i

/-- `BUF[i] <- v` (R51): one byte. -/
def Memory.write : Memory → Nat → Byte → Memory
  | [], i, v => if v = Memory.unlisted then [] else [(i, v)]
  | (j, w) :: m, i, v =>
    if i < j then (if v = Memory.unlisted then (j, w) :: m else (i, v) :: (j, w) :: m)
    else if i = j then (if v = Memory.unlisted then m else (i, v) :: m)
    else (j, w) :: Memory.write m i v

/-- The zero fill of R53: every byte 0x00. -/
def Memory.cleared : Memory := []

/-- One-byte writes of `s` at `base`, `base + 1`, ... in order. -/
def Memory.store (m : Memory) (base : Nat) : List Byte → Memory
  | [] => m
  | b :: s => Memory.store (m.write base b) (base + 1) s

/-- The `n` bytes at `base`, `base + 1`, ... read one by one: `BUF[base..base+n-1]` (R9). -/
def Memory.slice (m : Memory) (base : Nat) : Nat → List Byte
  | 0 => []
  | n + 1 => m.read base :: Memory.slice m (base + 1) n

end Sys2Proof.Machine
end

