-- ==== Sys2Proof/WellFormed.lean ====
section
/-! DEFINITION. Which instruction terms have an encoding: the conditions of the opcode table's rows (30_encoding.md R81,
R82). The encoding of an op 4 request depends on the open parameters, so the check takes them. -/

namespace Sys2Proof

/-- Each constructor's condition on its fields, as its row of the opcode table has it. -/
def Instr.wf (p : Params) : Instr → Bool
  | .sessOpen _ => true
  | .sessCmd _ c => c != 0x01#8
  | .chkrdy _ _ => true
  | .reqInst _ c => instantaneous c
  | .reqEnrg _ c => !instantaneous c
  | .rdvalV _ => true
  | .rdvalI _ => true
  | .rdvalP _ => true
  | .illegalOperand _ c => p.noChannel c
  | .rdenergy _ _ => true
  | .illegalOperation op _ _ => reservedOp op
  | .crc16 _ => true
  | .crcInit => true
  | .crcByte _ => true
  | .crcStep => true
  | .dec24 _ _ _ => true
  | .dec24p _ _ _ => true
  | .dec32 _ _ _ _ => true
  | .fOpen _ => true
  | .fSess _ c => c != 0x01#8
  | .fReqInst _ c => instantaneous c
  | .fReqEnrg _ c => !instantaneous c
  | .fAck _ _ _ => true
  | .fMeas12 _ _ _ _ _ => true
  | .fMeas15 _ _ _ _ _ _ => true
  | .fEnergy _ _ _ _ _ rest _ => rest.length == 12

end Sys2Proof
end

