-- ==== Sys2Proof/Machine/Operands.lean ====
section
/-! DEFINITION. The operand forms: the header bytes of the four request frames (30_encoding.md R84 to R86, R91), the byte
positions of the response fields (R92), and the mixed-endian decoders (43_mixed_endian_decoder.md R180, R181, R183). -/

namespace Sys2Proof.Machine

/-- The register pair of a request frame: a function of `command` alone (R91). -/
def pair (c : Byte) : Byte × Byte := if instantaneous c then pairInst else pairEnrg

/-- F-OPEN's nine covered bytes: address, command, access level, six password bytes (R84, R130). -/
def openHeader (a c : Byte) : List Byte :=
  [a, c, accessLevel, passwordByte, passwordByte, passwordByte, passwordByte, passwordByte, passwordByte]

/-- F-SESS's two covered bytes (R85, R131). -/
def sessHeader (a c : Byte) : List Byte := [a, c]

/-- F-REQ's four covered bytes (R86, R132, R133). -/
def reqHeader (p : Byte × Byte) (a c : Byte) : List Byte := [a, p.1, p.2, c]

/-- DEC24 (R180, R59): `{b0, b2, b1}`. -/
def dec24 (b0 b1 b2 : Byte) : BitVec 24 := b0 ++ b2 ++ b1

/-- DEC24P (R181): mask, then assemble, then divide, remainder dropped. -/
def dec24p (b0 b1 b2 : Byte) : BitVec 24 :=
  BitVec.ofNat 24 ((dec24 (b0 &&& powerMask) b1 b2).toNat / powerDiv)

/-- DEC32 (R183, R60): `{e2, e1, e4, e3}`. -/
def dec32 (e1 e2 e3 e4 : Byte) : Word32 := e2 ++ e1 ++ e4 ++ e3

/-- `zext_SLOT_W` of a decoded field (R153, R184). -/
def toSlot (v : BitVec 24) : Slot := v.setWidth slotW

/-- The field of phase `p` with shift `s`: `RXBUF[3*p+s+1]`, `[3*p+s+2]`, `[3*p+s+3]` (R92). -/
def fieldAt (m : Memory) (s p : Nat) : Field3 :=
  { b0 := m.read (3 * p + s + 1), b1 := m.read (3 * p + s + 2), b2 := m.read (3 * p + s + 3) }

/-- DEC24 on a field. -/
def fieldDec24 (f : Field3) : BitVec 24 := dec24 f.b0 f.b1 f.b2

/-- DEC24P on a field. -/
def fieldDec24p (f : Field3) : BitVec 24 := dec24p f.b0 f.b1 f.b2

/-- A field's bytes in wire order. -/
def fieldBytes (f : Field3) : List Byte := [f.b0, f.b1, f.b2]

end Sys2Proof.Machine
end

