-- ==== Sys2Proof/Decode.lean ====
section
/-! DEFINITION. Decoding of each port's words (30_encoding.md R80 to R90), the opcode table's own first-match decoding, and
the encoder written from the same tables. -/

namespace Sys2Proof

open Sys2Proof.Machine

/-! ## Request words (R80 to R82) -/

/-- `{op, address, command}` (R80). -/
def requestWord (op : BitVec 3) (a c : Byte) : RequestWord := op ++ a ++ c

/-- `OPREQ[18:16]`. -/
def requestOp (w : RequestWord) : BitVec 3 := w.extractLsb' 16 3

/-- `OPREQ[15:8]`. -/
def requestAddress (w : RequestWord) : Byte := w.extractLsb' 8 8

/-- `OPREQ[7:0]`. -/
def requestCommand (w : RequestWord) : Byte := w.extractLsb' 0 8

/-- The three fields to an operation: R82's function, every 19-bit word an instruction. -/
def decodeFields (p : Params) (op : BitVec 3) (a c : Byte) : Instr :=
  if op = opSess then (if c = cmdOpen then .sessOpen a else .sessCmd a c)
  else if op = opChkrdy then .chkrdy a c
  else if op = opReq then (if instantaneous c then .reqInst a c else .reqEnrg a c)
  else if op = opRdval then
    (if c = p.cmdVoltage then .rdvalV a
     else if c = p.cmdCurrent then .rdvalI a
     else if c = p.cmdPower then .rdvalP a
     else .illegalOperand a c)
  else if op = opRdenergy then .rdenergy a c
  else .illegalOperation op a c

/-- R82: decoding a request word. -/
def decodeRequest (p : Params) (w : RequestWord) : Instr :=
  decodeFields p (requestOp w) (requestAddress w) (requestCommand w)

/-- The mnemonic of each constructor, as spec/opcode_table.json spells it. -/
def Instr.mnemonic : Instr → String
  | .sessOpen _ => "SESS.OPEN"
  | .sessCmd _ _ => "SESS.CMD"
  | .chkrdy _ _ => "CHKRDY"
  | .reqInst _ _ => "REQ.INST"
  | .reqEnrg _ _ => "REQ.ENRG"
  | .rdvalV _ => "RDVAL.V"
  | .rdvalI _ => "RDVAL.I"
  | .rdvalP _ => "RDVAL.P"
  | .illegalOperand _ _ => "ILLEGAL_OPERAND"
  | .rdenergy _ _ => "RDENERGY"
  | .illegalOperation _ _ _ => "ILLEGAL_OPERATION"
  | .crc16 _ => "CRC16"
  | .crcInit => "CRC.INIT"
  | .crcByte _ => "CRC.BYTE"
  | .crcStep => "CRC.STEP"
  | .dec24 _ _ _ => "DEC24"
  | .dec24p _ _ _ => "DEC24P"
  | .dec32 _ _ _ _ => "DEC32"
  | .fOpen _ => "F-OPEN"
  | .fSess _ _ => "F-SESS"
  | .fReqInst _ _ => "F-REQ__REQ.INST"
  | .fReqEnrg _ _ => "F-REQ__REQ.ENRG"
  | .fAck _ _ _ => "F-ACK"
  | .fMeas12 _ _ _ _ _ => "F-MEAS12"
  | .fMeas15 _ _ _ _ _ _ => "F-MEAS15"
  | .fEnergy _ _ _ _ _ _ _ => "F-ENERGY"

/-- The OPREQ rows of spec/opcode_table.json in their `order`: mnemonic, match, mask. The three RDVAL rows select by
`cond` on the open parameters, which their match and mask take in here as the table's reference_instantiation does. -/
def opreqRows (p : Params) : List (String × RequestWord × RequestWord) :=
  [("SESS.OPEN", 0x10001#19, 0x700FF#19),
   ("SESS.CMD", 0x10000#19, 0x70000#19),
   ("CHKRDY", 0x20000#19, 0x70000#19),
   ("REQ.ENRG", 0x30000#19, 0x700FF#19),
   ("REQ.INST", 0x30000#19, 0x700FC#19),
   ("REQ.INST", 0x30004#19, 0x700FF#19),
   ("REQ.ENRG", 0x30000#19, 0x70000#19)] ++
  [("RDVAL.V", 0x40000#19 ||| p.cmdVoltage.setWidth 19, 0x700FF#19),
   ("RDVAL.I", 0x40000#19 ||| p.cmdCurrent.setWidth 19, 0x700FF#19),
   ("RDVAL.P", 0x40000#19 ||| p.cmdPower.setWidth 19, 0x700FF#19),
   ("ILLEGAL_OPERAND", 0x40000#19, 0x70000#19),
   ("RDENERGY", 0x50000#19, 0x70000#19),
   ("ILLEGAL_OPERATION", 0x00000#19, 0x70000#19),
   ("ILLEGAL_OPERATION", 0x60000#19, 0x60000#19)]

/-- The first row, in order, with `OPREQ & mask == match` (R82). -/
def firstRow (p : Params) (w : RequestWord) : Option String :=
  ((opreqRows p).find? fun r => decide (w &&& r.2.2 = r.2.1)).map (·.1)

/-! ## Frames (R83 to R90) and micro-steps -/

/-- Byte `i` of a sequence (R9). -/
def byteAt (s : List Byte) (i : Nat) : Byte := s.getD i 0x00#8

/-- The trailer a received or built frame of length `n` carries at `n-2`, `n-1` (R58). -/
def trailerOf (s : List Byte) (n : Nat) : Word16 := ofTrailer (byteAt s (n - 2)) (byteAt s (n - 1))

/-- The field at indices `i`, `i+1`, `i+2`. -/
def field3 (s : List Byte) (i : Nat) : Field3 :=
  { b0 := byteAt s i, b1 := byteAt s (i + 1), b2 := byteAt s (i + 2) }

/-- A four-byte request frame: F-SESS, whose command is any value but 0x01 (R85). -/
def decodeSessFrame (s : List Byte) : Except DecodeError Instr :=
  if byteAt s 1 = cmdOpen then .error .wrongFixedByte else .ok (.fSess (byteAt s 0) (byteAt s 1))

/-- A six-byte request frame: F-REQ, whose pair goes with its command (R86, R91). -/
def decodeReqFrame (s : List Byte) : Except DecodeError Instr :=
  if (byteAt s 1, byteAt s 2) = pair (byteAt s 3) then
    (if instantaneous (byteAt s 3) then .ok (.fReqInst (byteAt s 0) (byteAt s 3))
     else .ok (.fReqEnrg (byteAt s 0) (byteAt s 3)))
  else .error .wrongFixedByte

/-- An eleven-byte request frame: F-OPEN, indices 1 to 8 fixed (R84). -/
def decodeOpenFrame (s : List Byte) : Except DecodeError Instr :=
  if s.take 9 = openHeader (byteAt s 0) cmdOpen then .ok (.fOpen (byteAt s 0)) else .error .wrongFixedByte

/-- The format of a request frame by its length (R95). -/
def decodeTxFormat (s : List Byte) : Except DecodeError Instr :=
  if s.length = lenSess then decodeSessFrame s
  else if s.length = lenReq then decodeReqFrame s
  else if s.length = lenOpen then decodeOpenFrame s
  else .error .noFormatOfThisLength

/-- A frame on its way to the transport: the four request formats, whose trailer is the checksum of the rest (R83). -/
def decodeTxFrame (s : List Byte) : Except DecodeError Instr :=
  if s.length = lenSess ∨ s.length = lenReq ∨ s.length = lenOpen then
    (if s = frame (s.take (s.length - 2)) then decodeTxFormat s else .error .wrongTrailer)
  else .error .noFormatOfThisLength

/-- A frame from the transport: the format is its length's (R95), every byte value is legal (R94), and the trailer is
kept as it was received. -/
def decodeRxFrame (s : List Byte) : Except DecodeError Instr :=
  if s.length = lenAck then .ok (.fAck (byteAt s 0) (byteAt s 1) (trailerOf s lenAck))
  else if s.length = lenMeasVI then
    .ok (.fMeas12 (byteAt s 0) (field3 s 1) (field3 s 4) (field3 s 7) (trailerOf s lenMeasVI))
  else if s.length = lenMeasP then
    .ok (.fMeas15 (byteAt s 0) (field3 s 1) (field3 s 4) (field3 s 7) (field3 s 10) (trailerOf s lenMeasP))
  else if s.length = lenEnergy then
    .ok (.fEnergy (byteAt s 0) (byteAt s 1) (byteAt s 2) (byteAt s 3) (byteAt s 4) ((s.drop 5).take 12)
      (trailerOf s lenEnergy))
  else .error .noFormatOfThisLength

/-- A micro-step with its operand bytes, in the order of the row's `encoding` string. -/
def decodeMicro : Micro → List Byte → Except DecodeError Instr
  | .crcInit, [] => .ok .crcInit
  | .crcByte, [b] => .ok (.crcByte b)
  | .crcStep, [] => .ok .crcStep
  | .dec24, [b0, b1, b2] => .ok (.dec24 b0 b1 b2)
  | .dec24p, [b0, b1, b2] => .ok (.dec24p b0 b1 b2)
  | .dec32, [e1, e2, e3, e4] => .ok (.dec32 e1 e2 e3 e4)
  | _, _ => .error .wrongOperandCount

/-- Decoding, total on every port's words. -/
def decode (p : Params) : PortWord → Except DecodeError Instr
  | .request w => .ok (decodeRequest p w)
  | .message s => .ok (.crc16 s)
  | .micro m s => decodeMicro m s
  | .txFrame s => decodeTxFrame s
  | .rxFrame s => decodeRxFrame s

/-! ## The encoder -/

/-- A received frame's bytes: the covered bytes, then the trailer low byte first (R58, R83). -/
def withTrailer (h : List Byte) (c : Word16) : List Byte := h ++ [lo c, hi c]

/-- F-ACK's bytes (R87). -/
def ackBytes (x status : Byte) (c : Word16) : List Byte := withTrailer [x, status] c

/-- F-MEAS12's bytes (R88). -/
def meas12Bytes (x : Byte) (f0 f1 f2 : Field3) (c : Word16) : List Byte :=
  withTrailer (x :: (fieldBytes f0 ++ fieldBytes f1 ++ fieldBytes f2)) c

/-- F-MEAS15's bytes (R89). -/
def meas15Bytes (x : Byte) (skipped f0 f1 f2 : Field3) (c : Word16) : List Byte :=
  withTrailer (x :: (fieldBytes skipped ++ fieldBytes f0 ++ fieldBytes f1 ++ fieldBytes f2)) c

/-- F-ENERGY's bytes (R90). -/
def energyBytes (x e1 e2 e3 e4 : Byte) (rest : List Byte) (c : Word16) : List Byte :=
  withTrailer (x :: e1 :: e2 :: e3 :: e4 :: rest) c

/-- The port word of an instruction, from the same tables. -/
def encode (p : Params) : Instr → PortWord
  | .sessOpen a => .request (requestWord opSess a cmdOpen)
  | .sessCmd a c => .request (requestWord opSess a c)
  | .chkrdy a c => .request (requestWord opChkrdy a c)
  | .reqInst a c => .request (requestWord opReq a c)
  | .reqEnrg a c => .request (requestWord opReq a c)
  | .rdvalV a => .request (requestWord opRdval a p.cmdVoltage)
  | .rdvalI a => .request (requestWord opRdval a p.cmdCurrent)
  | .rdvalP a => .request (requestWord opRdval a p.cmdPower)
  | .illegalOperand a c => .request (requestWord opRdval a c)
  | .rdenergy a c => .request (requestWord opRdenergy a c)
  | .illegalOperation op a c => .request (requestWord op a c)
  | .crc16 s => .message s
  | .crcInit => .micro .crcInit []
  | .crcByte b => .micro .crcByte [b]
  | .crcStep => .micro .crcStep []
  | .dec24 b0 b1 b2 => .micro .dec24 [b0, b1, b2]
  | .dec24p b0 b1 b2 => .micro .dec24p [b0, b1, b2]
  | .dec32 e1 e2 e3 e4 => .micro .dec32 [e1, e2, e3, e4]
  | .fOpen a => .txFrame (frame (openHeader a cmdOpen))
  | .fSess a c => .txFrame (frame (sessHeader a c))
  | .fReqInst a c => .txFrame (frame (reqHeader pairInst a c))
  | .fReqEnrg a c => .txFrame (frame (reqHeader pairEnrg a c))
  | .fAck x st c => .rxFrame (ackBytes x st c)
  | .fMeas12 x f0 f1 f2 c => .rxFrame (meas12Bytes x f0 f1 f2 c)
  | .fMeas15 x sk f0 f1 f2 c => .rxFrame (meas15Bytes x sk f0 f1 f2 c)
  | .fEnergy x e1 e2 e3 e4 rest c => .rxFrame (energyBytes x e1 e2 e3 e4 rest c)

/-! ## The pseudo-operations (R97) -/

/-- `OPEN a` is `SESS a, 0x01`. -/
def pseudoOpen (a : Byte) : RequestWord := requestWord opSess a cmdOpen
/-- `RDVOLT` is `RDVAL CMD_VOLTAGE`; an ignored field is written as 0 (R96). -/
def pseudoRdvolt (p : Params) : RequestWord := requestWord opRdval 0x00#8 p.cmdVoltage
/-- `RDCURR` is `RDVAL CMD_CURRENT`. -/
def pseudoRdcurr (p : Params) : RequestWord := requestWord opRdval 0x00#8 p.cmdCurrent
/-- `RDPOWR` is `RDVAL CMD_POWER`. -/
def pseudoRdpowr (p : Params) : RequestWord := requestWord opRdval 0x00#8 p.cmdPower

/-! ## The opcode table's words by their numbers (log 15) -/

/-- The bytes of a number, bits 7 to 0 first. -/
def bytesOfNat : Nat → Nat → List Byte
  | 0, _ => []
  | n + 1, w => BitVec.ofNat 8 w :: bytesOfNat n (w / 256)

/-- The port word of a table row's bits: 19 bits (24 in whole bytes) are a request word; up to 16 bits are a message on
the checksum port, whose row gives no bits; the lengths of the four response formats are a frame from the transport.
The micro-steps and the request frames reach no port from outside, so no number stands for them. -/
def tableWord (nbits w : Nat) : Option PortWord :=
  if nbits = 19 ∨ nbits = 24 then (if w < 2 ^ 19 then some (.request (BitVec.ofNat 19 w)) else none)
  else if nbits = 0 ∨ nbits = 8 ∨ nbits = 16 then some (.message (bytesOfNat (nbits / 8) w))
  else if nbits = 32 ∨ nbits = 96 ∨ nbits = 120 ∨ nbits = 152 then some (.rxFrame (bytesOfNat (nbits / 8) w))
  else none

/-- The instruction the decoder reads from a table row's bits, under the reference instantiation of the open
parameters, which State.reset holds (log 4, log 15). -/
def decodeTableWord (nbits w : Nat) : Option Instr :=
  match tableWord nbits w with
  | none => none
  | some x => (decode Params.reference x).toOption

end Sys2Proof
end

