-- ==== Sys2Proof/Machine/State.lean ====
section
/-! DEFINITION. The state of the block (10_state.md R20 to R33) with the model's own fields for the walking state, the
open parameters and the environment, the reasons a step can stop, and the state after reset. -/

namespace Sys2Proof.Machine

/-- A channel of the MeasurementTriple (00_scope.md R14). -/
inductive Channel where
  | V
  | I
  | P
  deriving DecidableEq, Repr

/-- One channel's three phases, in wire order (R26). -/
structure Phases where
  p0 : Slot
  p1 : Slot
  p2 : Slot
  deriving DecidableEq, Repr

/-- The MeasurementTriple: nine slots (R26). -/
structure Triple where
  v : Phases
  i : Phases
  p : Phases
  deriving DecidableEq, Repr

/-- A parser operation: CHKRDY, RDVAL of one channel, RDENERGY (42_frame_parser.md). -/
inductive Parser where
  | chkrdy
  | rdval (ch : Channel)
  | rdenergy
  deriving DecidableEq, Repr

/-- The operation an error is raised by: `op` of `raise E(op)` (R12). A builder has no failure value (R207), nor has a
request with a reserved code (R208); an illegal RDVAL has the triple's (R209). -/
inductive Operation where
  | builder
  | parser (p : Parser)
  | illegalOperation
  | illegalOperand
  deriving DecidableEq, Repr

/-- The five error causes (60_exceptions.md R200). -/
inductive Cause where
  | checksumMismatch
  | deviceStatusError
  | transportFailure
  | illegalOperation
  | illegalOperand
  deriving DecidableEq, Repr

/-- The four request frames a builder operation makes (30_encoding.md R84 to R86). -/
inductive Form where
  | openSession
  | session
  | measure
  | energy
  deriving DecidableEq, Repr

/-- What a request asks of the engine, once decoded. -/
inductive Task where
  | build (f : Form)
  | parse (p : Parser)
  | illegalOperation
  | illegalOperand
  deriving DecidableEq, Repr

/-- Where a busy engine stands between two moves (log 5): the request accepted and nothing done; the first read of a
parser operation issued; its response rejected and the drain not issued; the drain read issued. The MODEL's own: R23
calls the walking state not architectural, and R213 and R241 let a hang and a reset fall at these points. -/
inductive Wait where
  | none
  | accepted (t : Task)
  | read (p : Parser)
  | rejected (p : Parser) (e : Cause)
  | drain (p : Parser) (e : Cause)
  deriving DecidableEq, Repr

/-- One item of the RX stream: a byte, or a point at which the transport gives up on a read (R55; log 2). -/
inductive RxItem where
  | byte (b : Byte)
  | fail
  deriving DecidableEq, Repr

/-- A transport call the engine issued (R54, R55): the frame handed to `TxWrite` with its outcome, or the count asked
of `RxRead`. -/
inductive Event where
  | tx (s : List Byte) (r : TxAnswer)
  | rx (n : Nat)
  deriving DecidableEq, Repr

/-- A move of the outside world (log 1): a request word on the request port, a message on the checksum port, the reset
input, items arriving on the RX stream. In these the engine then goes on as far as the stream lets it. In the last
three it does not, so that a reset can fall between its own moves (R241; log 14): a request word that is only accepted,
one move of the busy engine, items that arrive before it looks at them. -/
inductive Input where
  | request (w : RequestWord)
  | message (s : List Byte)
  | reset
  | arrive (items : List RxItem)
  | enter (w : RequestWord)
  | advance
  | queue (items : List RxItem)
  deriving DecidableEq, Repr

/-- Why a step stops for good. -/
inductive Fault where
  /-- Raised by `step` only: the engine is blocked in a transport read (BUSY is 1, as R213 describes the hang), the RX
  stream cannot answer the read, and nothing more happens outside. SAFE: it stops where the hardware waits for ever
  (93_implementation_defined.md U6: stuck; log 6). -/
  | readNeverReturns
  deriving DecidableEq, Repr

/-- Why an instruction has no meaning. -/
inductive Refusal where
  /-- Raised by an arm of `exec` that has no meaning yet; no arm of this model does. SAFE. -/
  | notModelled (mnemonic : String)
  deriving DecidableEq, Repr

/-- The state. The first fourteen fields are R20's complete list; the rest are the model's own (INVENTORY.md, State). -/
structure State where
  /-- `OP`, `ADDR`, `CMD`: the operand registers (R21). -/
  op : BitVec 3
  addr : Byte
  cmd : Byte
  /-- `BUSY` (R22). -/
  busy : Bool
  /-- `STATUS` (R25). -/
  status : BitVec 3
  /-- `READY` (R24). -/
  ready : Bool
  /-- `TRIPLE` (R26). -/
  triple : Triple
  /-- `ENERGY` (R27). -/
  energy : Word32
  /-- `CRCOUT` (R28). -/
  crcOut : Word16
  /-- `ACC` (R29). -/
  acc : Word16
  /-- `TXBUF` and `RXBUF` (R30). -/
  txBuf : Memory
  rxBuf : Memory
  /-- Where a busy engine stands (log 5). -/
  wait : Wait
  /-- What the last DEC24, DEC24P or DEC32 executed on its own returned (log 7). -/
  decOut : Word32
  /-- The open parameters, fixed when the block is built (R7; log 4). -/
  params : Params
  /-- What the outside world does next, in order (log 1). -/
  inputs : List Input
  /-- The RX stream's pending items, the earliest first (R55; log 2). -/
  rx : List RxItem
  /-- The transport's answers to the coming writes; then free values at `txCalls` (R54; log 3). -/
  txAnswers : List TxAnswer
  txCalls : Nat
  /-- The transport calls issued, the earliest first (R54). -/
  history : List Event
  deriving DecidableEq, Repr

/-- A channel whose three slots hold the sentinel (R26). -/
def Phases.sentinel : Phases := { p0 := sentinelSlot, p1 := sentinelSlot, p2 := sentinelSlot }

/-- All nine slots at the sentinel (R26, R161). -/
def Triple.sentinel : Triple := { v := Phases.sentinel, i := Phases.sentinel, p := Phases.sentinel }

/-- The state right after reset: R33's values; the model's own fields as their log entries name them. -/
def State.reset : State :=
  { op := 0#3, addr := 0x00#8, cmd := 0x00#8, busy := false, status := stNone, ready := false
    triple := Triple.sentinel, energy := sentinel32, crcOut := 0xFFFF#16, acc := 0xFFFF#16
    txBuf := Memory.cleared, rxBuf := Memory.cleared
    wait := .none, decOut := 0#32, params := Params.reference
    inputs := [], rx := [], txAnswers := [], txCalls := 0, history := [] }

end Sys2Proof.Machine
end

