-- ==== Sys2Proof/Machine/Flags.lean ====
section
/-! DEFINITION. The checks a parser makes and the codes an ending writes: READY and STATUS are the only flags
(10_state.md R24, R25). -/

namespace Sys2Proof.Machine

/-- `CHECK` on the received frame of length `n` in RXBUF against the checksum `c` of its covered bytes: both trailer
bytes (R13, R116). -/
def trailerMatches (m : Memory) (n : Nat) (c : Word16) : Bool :=
  m.read (n - 2) == lo c && m.read (n - 1) == hi c

/-- CHKRDY's second check: the status byte at index 1 is zero; the other operations have none (R151, R153). -/
def deviceReady (p : Parser) (m : Memory) : Bool := p != .chkrdy || m.read 1 == 0x00#8

/-- The STATUS code of a cause (R25, R200). -/
def Cause.code : Cause → BitVec 3
  | .checksumMismatch => stChecksumMismatch
  | .deviceStatusError => stDeviceStatusError
  | .transportFailure => stTransportFailure
  | .illegalOperation => stIllegalOperation
  | .illegalOperand => stIllegalOperand

/-- The causes whose recovery issues the drain read (R160, R205, R206). -/
def Cause.drains : Cause → Bool
  | .checksumMismatch => true
  | .deviceStatusError => true
  | _ => false

/-- The length of a parser operation's response (R95). -/
def Parser.readLen : Parser → Nat
  | .chkrdy => lenAck
  | .rdval .P => lenMeasP
  | .rdval _ => lenMeasVI
  | .rdenergy => lenEnergy

/-- `DRAIN_LEN(op)`: the count of the operation's own read (R7, R160; log 13). -/
def Parser.drainLen (p : Parser) : Nat := p.readLen

/-- The error a received response raises, the checks in R211's order: the bytes are in RXBUF and the checksum of the
covered ones in ACC. -/
def State.verdict (p : Parser) (s : State) : Option Cause :=
  if !trailerMatches s.rxBuf p.readLen s.acc then some .checksumMismatch
  else if !deviceReady p s.rxBuf then some .deviceStatusError
  else none

end Sys2Proof.Machine
end

