-- ==== Sys2Proof/Machine/Ops.lean ====
section
/-! DEFINITION. The operations every meaning is made of: acceptance and end of a request, the transport primitives, the
error recovery (this hardware's exception), the building and the parsing of a frame, and the engine's moves one by one. -/

namespace Sys2Proof.Machine

/-! ## Life cycle of a request (10_state.md R21, R22) -/

/-- Acceptance: BUSY set, the operand registers loaded. -/
def State.accept (op : BitVec 3) (a c : Byte) (s : State) : State :=
  { s with op := op, addr := a, cmd := c, busy := true }

/-- The end of an operation: STATUS written, then BUSY to 0. It is the return from an error too (R212). -/
def State.endWith (code : BitVec 3) (s : State) : State :=
  { s with status := code, busy := false, wait := .none }

/-! ## The transport primitives (20_memory.md R54, R55) -/

/-- What the coming `TxWrite` returns: the environment's answer, or the free value (log 3). -/
def State.nextTxAnswer (s : State) : TxAnswer :=
  match s.txAnswers with
  | [] => Config.freeTxAnswer s.txCalls
  | r :: _ => r

/-- `TxWrite(bytes)` as an event of the history, with its outcome (R54). -/
def State.txWrite (bytes : List Byte) (s : State) : State :=
  { s with txAnswers := s.txAnswers.tail, txCalls := s.txCalls + 1
           history := s.history ++ [.tx bytes s.nextTxAnswer] }

/-- What `RxRead` does on a stream: it gives bytes, fails, or does not return (R55). -/
inductive RxOutcome where
  | got (s : List Byte) (rest : List RxItem)
  | failed (rest : List RxItem)
  | silent
  deriving DecidableEq, Repr

/-- One byte in front of what the rest of a read gives. -/
def RxOutcome.cons (b : Byte) : RxOutcome → RxOutcome
  | .got s rest => .got (b :: s) rest
  | .failed rest => .failed rest
  | .silent => .silent

/-- `RxRead(n)` on the stream: the next `n` bytes in arrival order, whatever they are; `fail` where the transport
gives up before the count is reached, the bytes before that point being lost (log 2); no answer while fewer than `n`
have arrived. -/
def rxTake : Nat → List RxItem → RxOutcome
  | 0, r => .got [] r
  | _ + 1, [] => .silent
  | _ + 1, .fail :: r => .failed r
  | n + 1, .byte b :: r => (rxTake n r).cons b

/-- The issue of `RxRead(n)` as an event of the history. -/
def State.callRx (n : Nat) (s : State) : State := { s with history := s.history ++ [.rx n] }

/-! ## Taking an error (60_exceptions.md R205 to R212), the analogue of an exception -/

/-- The failure value of an operation in its result register, and nothing else (R161, R209). -/
def State.failureValue (o : Operation) (s : State) : State :=
  match o with
  | .builder => s
  | .illegalOperation => s
  | .parser .chkrdy => { s with ready := false }
  | .parser (.rdval _) => { s with triple := Triple.sentinel }
  | .parser .rdenergy => { s with energy := sentinel32 }
  | .illegalOperand => { s with triple := Triple.sentinel }

/-- The end every recovery has: the failure value, the code, BUSY to 0. Nothing is saved (R210). -/
def State.recover (e : Cause) (o : Operation) (s : State) : State := (s.failureValue o).endWith e.code

/-- The drain read once issued (R160): bytes or `fail`, its outcome changes nothing the engine writes; without an
answer the engine stays blocked in it (R213). -/
def State.continueDrain (e : Cause) (p : Parser) (s : State) : State :=
  match rxTake p.drainLen s.rx with
  | .silent => { s with wait := .drain p e }
  | .failed rest => { s with rx := rest }.recover e (.parser p)
  | .got _ rest => { s with rx := rest }.recover e (.parser p)

/-- `raise E(op)` (R12): one drain read for the two causes that have it, then the recovery. -/
def State.raise (e : Cause) (o : Operation) (s : State) : State :=
  match o with
  | .parser p => if e.drains then (s.callRx p.drainLen).continueDrain e p else s.recover e o
  | _ => s.recover e o

/-! ## Building a frame (41_frame_builder.md R134, R115) -/

/-- TXBUF cleared, the header written, its checksum computed and written behind it low byte first. -/
def State.buildFrame (header : List Byte) (s : State) : State :=
  let filled := Memory.cleared.store 0 header
  let c := crc16 (filled.slice 0 header.length)
  { s with txBuf := (filled.write header.length (lo c)).write (header.length + 1) (hi c), acc := c }

/-- The frame's `n` bytes handed to the transport with one `TxWrite`, and the operation's end (R134, R207). -/
def State.transmit (n : Nat) (s : State) : State :=
  match s.nextTxAnswer with
  | .ok => (s.txWrite (s.txBuf.slice 0 n)).endWith stOk
  | .fail => (s.txWrite (s.txBuf.slice 0 n)).raise .transportFailure .builder

/-! ## Parsing a frame (42_frame_parser.md R150) -/

/-- The three decoded fields of a measurement response (R92, R153, R156). -/
def decodedPhases (ch : Channel) (m : Memory) : Phases :=
  match ch with
  | .P => { p0 := toSlot (fieldDec24p (fieldAt m shiftP 0)), p1 := toSlot (fieldDec24p (fieldAt m shiftP 1))
            p2 := toSlot (fieldDec24p (fieldAt m shiftP 2)) }
  | _ => { p0 := toSlot (fieldDec24 (fieldAt m shiftVI 0)), p1 := toSlot (fieldDec24 (fieldAt m shiftVI 1))
           p2 := toSlot (fieldDec24 (fieldAt m shiftVI 2)) }

/-- `TRIPLE.X[0..2]` written, the other two channels kept (R153). -/
def Triple.set (ch : Channel) (ph : Phases) (t : Triple) : Triple :=
  match ch with
  | .V => { t with v := ph }
  | .I => { t with i := ph }
  | .P => { t with p := ph }

/-- The success value of a parser operation from RXBUF (R151, R153, R158). -/
def State.successValue (p : Parser) (s : State) : State :=
  match p with
  | .chkrdy => { s with ready := true }
  | .rdval ch => { s with triple := s.triple.set ch (decodedPhases ch s.rxBuf) }
  | .rdenergy => { s with energy := dec32 (s.rxBuf.read 1) (s.rxBuf.read 2) (s.rxBuf.read 3) (s.rxBuf.read 4) }

/-- The received bytes in RXBUF and the checksum of the covered ones in ACC (R150). -/
def State.receive (n : Nat) (bytes : List Byte) (s : State) : State :=
  let m := s.rxBuf.store 0 bytes
  { s with rxBuf := m, acc := crc16 (m.slice 0 (n - 2)) }

/-- The success path's end (R151, R153, R158). -/
def State.succeed (p : Parser) (s : State) : State := (s.successValue p).endWith stOk

/-- The error the response raises, or the value; the bytes are already in RXBUF and the checksum in ACC. -/
def State.conclude (p : Parser) (s : State) : State :=
  match s.verdict p with
  | some e => s.raise e (.parser p)
  | none => s.succeed p

/-- The first read once issued: bytes are checked and decoded, `fail` raises TransportFailure without a drain, no
answer blocks (R150, R207, R213). -/
def State.continueRead (p : Parser) (s : State) : State :=
  match rxTake p.readLen s.rx with
  | .silent => { s with wait := .read p }
  | .failed rest => { s with rx := rest }.raise .transportFailure (.parser p)
  | .got bytes rest => ({ s with rx := rest }.receive p.readLen bytes).conclude p

/-- The start of a parser operation (R150): RXBUF cleared, the failure value written, one read issued. -/
def State.startParser (p : Parser) (s : State) : State :=
  ({ s with rxBuf := Memory.cleared }.failureValue (.parser p)).callRx p.readLen

/-- A parser operation from its acceptance on (R150). -/
def State.runParser (p : Parser) (s : State) : State := (s.startParser p).continueRead p

/-! ## Requests (10_state.md R21, R22) -/

/-- The covered bytes of a request frame, a function of the operand registers (R130 to R133). -/
def Form.header (f : Form) (a c : Byte) : List Byte :=
  match f with
  | .openSession => openHeader a c
  | .session => sessHeader a c
  | .measure => reqHeader pairInst a c
  | .energy => reqHeader pairEnrg a c

/-- The length of a request frame (R95). -/
def Form.len : Form → Nat
  | .openSession => lenOpen
  | .session => lenSess
  | .measure => lenReq
  | .energy => lenReq

/-- A task from its acceptance to its end, or to the read it blocks in. -/
def State.perform (t : Task) (s : State) : State :=
  match t with
  | .build f => (s.buildFrame (f.header s.addr s.cmd)).transmit f.len
  | .parse p => s.runParser p
  | .illegalOperation => s.raise .illegalOperation .illegalOperation
  | .illegalOperand => s.raise .illegalOperand .illegalOperand

/-- A request is served when the engine is idle; presented to a busy engine it has no effect (R246; log 17). -/
def State.serve (op : BitVec 3) (a c : Byte) (t : Task) (s : State) : State :=
  if s.busy then s else (s.accept op a c).perform t

/-! ## The line and the hang -/

/-- A blocked read goes on as far as the stream lets it (R213); at its other points the engine does not look at the
line. -/
def State.resume (s : State) : State :=
  match s.wait with
  | .none => s
  | .accepted _ => s
  | .read p => s.continueRead p
  | .rejected _ _ => s
  | .drain p e => s.continueDrain e p

/-- Items arrive on the RX stream behind those pending; a blocked read that they answer returns (R55, R213). -/
def State.deliver (items : List RxItem) (s : State) : State := { s with rx := s.rx ++ items }.resume

/-- A stream cannot answer a read of `n` bytes. -/
def rxSilent (n : Nat) (r : List RxItem) : Bool := rxTake n r == .silent

/-- The engine is blocked and the stream cannot answer (R213). -/
def State.stuck (s : State) : Bool :=
  match s.wait with
  | .none => false
  | .accepted _ => false
  | .read p => rxSilent p.readLen s.rx
  | .rejected _ _ => false
  | .drain p _ => rxSilent p.drainLen s.rx

/-! ## The engine's own moves, one by one, and reset -/

/-- What a request instruction asks; no other instruction is a request. -/
def requestTask : Instr → Option Task
  | .sessOpen _ => some (.build .openSession)
  | .sessCmd _ _ => some (.build .session)
  | .chkrdy _ _ => some (.parse .chkrdy)
  | .reqInst _ _ => some (.build .measure)
  | .reqEnrg _ _ => some (.build .energy)
  | .rdvalV _ => some (.parse (.rdval .V))
  | .rdvalI _ => some (.parse (.rdval .I))
  | .rdvalP _ => some (.parse (.rdval .P))
  | .illegalOperand _ _ => some .illegalOperand
  | .rdenergy _ _ => some (.parse .rdenergy)
  | .illegalOperation _ _ _ => some .illegalOperation
  | .crc16 _ => none
  | .crcInit => none
  | .crcByte _ => none
  | .crcStep => none
  | .dec24 _ _ _ => none
  | .dec24p _ _ _ => none
  | .dec32 _ _ _ _ => none
  | .fOpen _ => none
  | .fSess _ _ => none
  | .fReqInst _ _ => none
  | .fReqEnrg _ _ => none
  | .fAck _ _ _ => none
  | .fMeas12 _ _ _ _ _ => none
  | .fMeas15 _ _ _ _ _ _ => none
  | .fEnergy _ _ _ _ _ _ _ => none

/-- A request word is accepted by an idle engine and nothing more happens yet (R21, R22; log 14). -/
def State.enter (w : RequestWord) (s : State) : State :=
  if s.busy then s
  else
    match requestTask (decodeRequest s.params w) with
    | none => s
    | some t => { s.accept (requestOp w) (requestAddress w) (requestCommand w) with wait := .accepted t }

/-- The first move of an accepted task (log 14): a parser operation issues its read. A builder operation, whose one
`TxWrite` is the last thing seen outside, and an illegal request, which makes no call, are one move. -/
def State.firstMove (t : Task) (s : State) : State :=
  match t with
  | .build f => s.perform (.build f)
  | .parse p => { s.startParser p with wait := .read p }
  | .illegalOperation => s.perform .illegalOperation
  | .illegalOperand => s.perform .illegalOperand

/-- The received response judged: it ends the operation, or is rejected with the drain still to come. -/
def State.judge (p : Parser) (s : State) : State :=
  match s.verdict p with
  | some e => { s with wait := .rejected p e }
  | none => s.succeed p

/-- The answer of the first read, if there is one, and the move it makes the engine take. -/
def State.readMove (p : Parser) (s : State) : State :=
  match rxTake p.readLen s.rx with
  | .silent => s
  | .failed rest => { s with rx := rest }.raise .transportFailure (.parser p)
  | .got bytes rest => ({ s with rx := rest }.receive p.readLen bytes).judge p

/-- One move of a busy engine (log 14): the task's first move; the answered read is judged and ends the operation or
rejects the response; the drain is issued; the answered drain ends the operation. -/
def State.advance (s : State) : State :=
  match s.wait with
  | .none => s
  | .accepted t => s.firstMove t
  | .read p => s.readMove p
  | .rejected p e => { s.callRx p.drainLen with wait := .drain p e }
  | .drain p e => s.continueDrain e p

/-- A busy engine goes on from where it stands as far as the stream lets it. -/
def State.goOn (s : State) : State :=
  match s.wait with
  | .none => s
  | .accepted t => s.perform t
  | .read p => s.continueRead p
  | .rejected p e => s.raise e (.parser p)
  | .drain p e => s.continueDrain e p

/-- The reset input (70_reset_and_hazards.md R240 to R242): the whole block at its reset values, nothing outside it
touched. -/
def State.resetBlock (s : State) : State :=
  { State.reset with params := s.params, inputs := s.inputs, rx := s.rx, txAnswers := s.txAnswers
                     txCalls := s.txCalls, history := s.history }

end Sys2Proof.Machine
end

