-- ==== Sys2Proof/Machine/Builder.lean ====
section
/-! DEFINITION. The meanings of the four builder operations (41_frame_builder.md). -/

namespace Sys2Proof.Machine

/-- SESS.OPEN (R130). -/
def execSessOpen (a : Byte) (s : State) : Host.Outcome State Fault Refusal :=
  .next (s.serve opSess a cmdOpen (.build .openSession))

/-- SESS.CMD (R131). -/
def execSessCmd (a c : Byte) (s : State) : Host.Outcome State Fault Refusal :=
  .next (s.serve opSess a c (.build .session))

/-- REQ.INST (R132). -/
def execReqInst (a c : Byte) (s : State) : Host.Outcome State Fault Refusal :=
  .next (s.serve opReq a c (.build .measure))

/-- REQ.ENRG (R133). -/
def execReqEnrg (a c : Byte) (s : State) : Host.Outcome State Fault Refusal :=
  .next (s.serve opReq a c (.build .energy))

end Sys2Proof.Machine
end

