-- ==== Sys2Proof/Machine/Checksum.lean ====
section
/-! DEFINITION. The meanings of the Checksum Engine's rows (40_crc16.md). -/

namespace Sys2Proof.Machine

/-- CRC16 on the checksum port (R110, R118): served when idle; CRCOUT takes the checksum, and ACC holds it as after
every computation (R29; log 18). -/
def execCrc16 (message : List Byte) (s : State) : Host.Outcome State Fault Refusal :=
  .next (if s.busy then s else { s with crcOut := crc16 message, acc := crc16 message })

/-- CRC.INIT (R111). -/
def execCrcInit (s : State) : Host.Outcome State Fault Refusal := .next { s with acc := crcInitValue }

/-- CRC.BYTE (R112). -/
def execCrcByte (b : Byte) (s : State) : Host.Outcome State Fault Refusal := .next { s with acc := crcByte s.acc b }

/-- CRC.STEP (R113). -/
def execCrcStep (s : State) : Host.Outcome State Fault Refusal := .next { s with acc := crcStep s.acc }

end Sys2Proof.Machine
end

