-- ==== Sys2Proof/Machine/Decoders.lean ====
section
/-! DEFINITION. The meanings of the decoder rows (43_mixed_endian_decoder.md): each hands its result back in `decOut` and
changes nothing else (log 7, log 8). -/

namespace Sys2Proof.Machine

/-- DEC24 (R180). -/
def execDec24 (b0 b1 b2 : Byte) (s : State) : Host.Outcome State Fault Refusal :=
  .next { s with decOut := (dec24 b0 b1 b2).setWidth 32 }

/-- DEC24P (R181). -/
def execDec24p (b0 b1 b2 : Byte) (s : State) : Host.Outcome State Fault Refusal :=
  .next { s with decOut := (dec24p b0 b1 b2).setWidth 32 }

/-- DEC32 (R183). -/
def execDec32 (e1 e2 e3 e4 : Byte) (s : State) : Host.Outcome State Fault Refusal :=
  .next { s with decOut := dec32 e1 e2 e3 e4 }

end Sys2Proof.Machine
end

