-- ==== Sys2Proof/Machine/Frames.lean ====
section
/-! DEFINITION. The meanings of the frame rows. A FRAME-TX row is the frame being built in TXBUF, the part of its builder
before `TxWrite` (R83, R134; log 9). A FRAME-RX row is the frame arriving from the transport, parsed by the operation
that waits for it or kept in the RX stream (R83, R55; log 10). -/

namespace Sys2Proof.Machine

/-- F-OPEN (R84). -/
def execFOpen (a : Byte) (s : State) : Host.Outcome State Fault Refusal :=
  .next (s.buildFrame (openHeader a cmdOpen))

/-- F-SESS (R85). -/
def execFSess (a c : Byte) (s : State) : Host.Outcome State Fault Refusal :=
  .next (s.buildFrame (sessHeader a c))

/-- F-REQ of REQ.INST (R86). -/
def execFReqInst (a c : Byte) (s : State) : Host.Outcome State Fault Refusal :=
  .next (s.buildFrame (reqHeader pairInst a c))

/-- F-REQ of REQ.ENRG (R86). -/
def execFReqEnrg (a c : Byte) (s : State) : Host.Outcome State Fault Refusal :=
  .next (s.buildFrame (reqHeader pairEnrg a c))

/-- F-ACK (R87). -/
def execFAck (x status : Byte) (k : Word16) (s : State) : Host.Outcome State Fault Refusal :=
  .next (s.deliver ((ackBytes x status k).map .byte))

/-- F-MEAS12 (R88). -/
def execFMeas12 (x : Byte) (f0 f1 f2 : Field3) (k : Word16) (s : State) : Host.Outcome State Fault Refusal :=
  .next (s.deliver ((meas12Bytes x f0 f1 f2 k).map .byte))

/-- F-MEAS15 (R89). -/
def execFMeas15 (x : Byte) (sk f0 f1 f2 : Field3) (k : Word16) (s : State) : Host.Outcome State Fault Refusal :=
  .next (s.deliver ((meas15Bytes x sk f0 f1 f2 k).map .byte))

/-- F-ENERGY (R90). -/
def execFEnergy (x e1 e2 e3 e4 : Byte) (rest : List Byte) (k : Word16) (s : State) : Host.Outcome State Fault Refusal :=
  .next (s.deliver ((energyBytes x e1 e2 e3 e4 rest k).map .byte))

end Sys2Proof.Machine
end

