-- ==== Sys2Proof/Machine/Illegal.lean ====
section
/-! DEFINITION. The meanings of the two illegal requests (30_encoding.md R93): the engine turns them away with a STATUS
code, which is their effect (log 16). -/

namespace Sys2Proof.Machine

/-- ILLEGAL_OPERATION (R208). -/
def execIllegalOperation (op : BitVec 3) (a c : Byte) (s : State) : Host.Outcome State Fault Refusal :=
  .next (s.serve op a c .illegalOperation)

/-- ILLEGAL_OPERAND (R209). -/
def execIllegalOperand (a c : Byte) (s : State) : Host.Outcome State Fault Refusal :=
  .next (s.serve opRdval a c .illegalOperand)

end Sys2Proof.Machine
end

