-- ==== Sys2Proof/Machine/ParserOps.lean ====
section
/-! DEFINITION. The meanings of the five parser operations (42_frame_parser.md). The command of an RDVAL form is the
parameter that selects it (30_encoding.md R82). -/

namespace Sys2Proof.Machine

/-- CHKRDY (R151). -/
def execChkrdy (a c : Byte) (s : State) : Host.Outcome State Fault Refusal :=
  .next (s.serve opChkrdy a c (.parse .chkrdy))

/-- RDVAL.V (R154). -/
def execRdvalV (a : Byte) (s : State) : Host.Outcome State Fault Refusal :=
  .next (s.serve opRdval a s.params.cmdVoltage (.parse (.rdval .V)))

/-- RDVAL.I (R155). -/
def execRdvalI (a : Byte) (s : State) : Host.Outcome State Fault Refusal :=
  .next (s.serve opRdval a s.params.cmdCurrent (.parse (.rdval .I)))

/-- RDVAL.P (R156). -/
def execRdvalP (a : Byte) (s : State) : Host.Outcome State Fault Refusal :=
  .next (s.serve opRdval a s.params.cmdPower (.parse (.rdval .P)))

/-- RDENERGY (R158). -/
def execRdenergy (a c : Byte) (s : State) : Host.Outcome State Fault Refusal :=
  .next (s.serve opRdenergy a c (.parse .rdenergy))

end Sys2Proof.Machine
end

