-- ==== Sys2Proof/Machine/Dispatch.lean ====
section
/-! DEFINITION. One arm per constructor of Instr. -/

namespace Sys2Proof.Machine

def exec (i : Instr) (s : State) : Host.Outcome State Fault Refusal :=
  match i with
  | .sessOpen a => Sys2Proof.Machine.execSessOpen a s
  | .sessCmd a c => Sys2Proof.Machine.execSessCmd a c s
  | .chkrdy a c => Sys2Proof.Machine.execChkrdy a c s
  | .reqInst a c => Sys2Proof.Machine.execReqInst a c s
  | .reqEnrg a c => Sys2Proof.Machine.execReqEnrg a c s
  | .rdvalV a => Sys2Proof.Machine.execRdvalV a s
  | .rdvalI a => Sys2Proof.Machine.execRdvalI a s
  | .rdvalP a => Sys2Proof.Machine.execRdvalP a s
  | .illegalOperand a c => Sys2Proof.Machine.execIllegalOperand a c s
  | .rdenergy a c => Sys2Proof.Machine.execRdenergy a c s
  | .illegalOperation op a c => Sys2Proof.Machine.execIllegalOperation op a c s
  | .crc16 m => Sys2Proof.Machine.execCrc16 m s
  | .crcInit => Sys2Proof.Machine.execCrcInit s
  | .crcByte b => Sys2Proof.Machine.execCrcByte b s
  | .crcStep => Sys2Proof.Machine.execCrcStep s
  | .dec24 b0 b1 b2 => Sys2Proof.Machine.execDec24 b0 b1 b2 s
  | .dec24p b0 b1 b2 => Sys2Proof.Machine.execDec24p b0 b1 b2 s
  | .dec32 e1 e2 e3 e4 => Sys2Proof.Machine.execDec32 e1 e2 e3 e4 s
  | .fOpen a => Sys2Proof.Machine.execFOpen a s
  | .fSess a c => Sys2Proof.Machine.execFSess a c s
  | .fReqInst a c => Sys2Proof.Machine.execFReqInst a c s
  | .fReqEnrg a c => Sys2Proof.Machine.execFReqEnrg a c s
  | .fAck x st k => Sys2Proof.Machine.execFAck x st k s
  | .fMeas12 x f0 f1 f2 k => Sys2Proof.Machine.execFMeas12 x f0 f1 f2 k s
  | .fMeas15 x sk f0 f1 f2 k => Sys2Proof.Machine.execFMeas15 x sk f0 f1 f2 k s
  | .fEnergy x e1 e2 e3 e4 rest k => Sys2Proof.Machine.execFEnergy x e1 e2 e3 e4 rest k s

end Sys2Proof.Machine
end

