-- ==== Sys2Proof/Machine/Step.lean ====
section
/-! DEFINITION. One step: the next move of the outside world is served (log 1). There is no program counter and no fetch
(10_state.md R23); the host's next request word stands where an instruction would be fetched (log 15). -/

namespace Sys2Proof.Machine

/-- A request word is decoded and its operation runs to its end, or to the read it blocks in; a message runs CRC16;
reset and arrivals are served in every state. The last three moves let the engine stand between its own moves, where a
reset may then find it (R241; log 14). With nothing left to happen an idle engine keeps its state, a busy one goes on,
and is stuck if it is blocked in a read that the stream does not answer (R213; log 6). -/
def step (s : State) : Host.Outcome State Fault Refusal :=
  match s.inputs with
  | [] => if s.stuck then .fault .readNeverReturns else .next s.goOn
  | .request w :: rest => exec (decodeRequest s.params w) { s with inputs := rest }
  | .message m :: rest => exec (.crc16 m) { s with inputs := rest }
  | .reset :: rest => .next { s with inputs := rest }.resetBlock
  | .arrive items :: rest => .next ({ s with inputs := rest }.deliver items)
  | .enter w :: rest => .next ({ s with inputs := rest }.enter w)
  | .advance :: rest => .next { s with inputs := rest }.advance
  | .queue items :: rest => .next { s with inputs := rest, rx := s.rx ++ items }

/-- The host's statement that a table word is what runs next: a request or a message is put in front of the inputs of
an idle engine, which alone serves it (R246); a response frame is put in front as an arrival (log 15). -/
def State.withFetchWord (s : State) (nbits w : Nat) : State :=
  match tableWord nbits w with
  | some (.request v) => { s with busy := false, wait := .none, inputs := .request v :: s.inputs }
  | some (.message m) => { s with busy := false, wait := .none, inputs := .message m :: s.inputs }
  | some (.rxFrame f) => { s with inputs := .arrive (f.map .byte) :: s.inputs }
  | _ => s

end Sys2Proof.Machine
end

