-- ==== Sys2Proof/Safety.lean ====
section
/-! DEFINITION. The terms claims use: what the host can see, the machine's invariant, and which instructions are requests
of which kind. -/

namespace Sys2Proof.Machine

/-- What the host reads on the result port (10_state.md R20, 60_exceptions.md R220); results count when BUSY is 0 (R247). -/
structure HostView where
  busy : Bool
  status : BitVec 3
  ready : Bool
  triple : Triple
  energy : Word32
  crcOut : Word16
  deriving DecidableEq, Repr

/-- The host's view of a state. -/
def State.hostView (s : State) : HostView :=
  { busy := s.busy, status := s.status, ready := s.ready, triple := s.triple, energy := s.energy, crcOut := s.crcOut }

/-- Two states differ at most in what no operation may depend on: ACC and the two buffers (R29, R30). -/
def State.sameButScratch (s t : State) : Prop :=
  { s with acc := t.acc, txBuf := t.txBuf, rxBuf := t.rxBuf } = t

/-- At most one channel holds non-sentinel values (R26, R157). -/
def Triple.atMostOneChannel (t : Triple) : Bool :=
  (t.v == .sentinel && t.i == .sentinel) || (t.v == .sentinel && t.p == .sentinel) ||
    (t.i == .sentinel && t.p == .sentinel)

/-- The result register of a parser operation holds its failure value (R161). -/
def State.holdsFailure (p : Parser) (s : State) : Bool :=
  match p with
  | .chkrdy => !s.ready
  | .rdval _ => s.triple == .sentinel
  | .rdenergy => s.energy == sentinel32

/-- The command parameter that selects a channel (R82). -/
def Params.command (p : Params) : Channel → Byte
  | .V => p.cmdVoltage
  | .I => p.cmdCurrent
  | .P => p.cmdPower

/-- The operand registers name this parser operation (R32, R95). -/
def State.namesParser (p : Parser) (s : State) : Bool :=
  match p with
  | .chkrdy => s.op == opChkrdy
  | .rdval ch => s.op == opRdval && s.cmd == Params.command s.params ch
  | .rdenergy => s.op == opRdenergy

/-- What a busy engine's state is like between two moves (R213, R241): an accepted task is what the operand registers
decode to; from the first read on they name the operation, and its result register holds the failure value; RXBUF is
still clear at the first read; a rejected response stands in RXBUF with its checksum in ACC, and they give the error that
is being reported. -/
def State.waitSound (s : State) : Bool :=
  match s.wait with
  | .none => true
  | .accepted t => requestTask (decodeFields s.params s.op s.addr s.cmd) == some t
  | .read p => s.namesParser p && s.holdsFailure p && s.rxBuf == Memory.cleared
  | .rejected p e => s.namesParser p && s.holdsFailure p && s.verdict p == some e
  | .drain p e => s.namesParser p && s.holdsFailure p && s.verdict p == some e

/-- The engine has ended what it was asked, or is blocked in a read that the stream does not answer (R22, R213): where
every move leaves it that lets it go on (log 5). -/
def State.settled (s : State) : Bool := s.wait == .none || s.stuck

/-- The moves that leave the engine between its own moves (log 14). -/
def Input.paced : Input → Bool
  | .request _ => false
  | .message _ => false
  | .reset => false
  | .arrive _ => false
  | .enter _ => true
  | .advance => true
  | .queue _ => true

/-- The state after `k` steps, if none of them stops. -/
def steps : Nat → State → Option State
  | 0, s => some s
  | k + 1, s =>
    match step s with
    | .next t => steps k t
    | .fault _ => none
    | .refused _ => none

/-- The machine's invariant: parameters pairwise different (R7), buffers canonical and within their sizes (R50, R51),
STATUS never the reserved value (R25), BUSY exactly while an operation is under way (R22), which stands where its state
is sound, at most one channel with values (R26). -/
structure State.Inv (s : State) : Prop where
  params : s.params.wf = true
  txCanonical : s.txBuf.wf = true
  txWithin : s.txBuf.within txSize = true
  rxCanonical : s.rxBuf.wf = true
  rxWithin : s.rxBuf.within rxSize = true
  statusLegal : s.status ≠ 7#3
  busyWaits : s.busy = true ↔ s.wait ≠ .none
  waitSound : s.waitSound = true
  oneChannel : s.triple.atMostOneChannel = true

/-- The parser operation a request instruction runs, with the operand registers it loads (R81, R82). -/
def parserRequest (p : Params) : Instr → Option (Parser × BitVec 3 × Byte × Byte)
  | .chkrdy a c => some (.chkrdy, 2#3, a, c)
  | .rdvalV a => some (.rdval .V, 4#3, a, p.cmdVoltage)
  | .rdvalI a => some (.rdval .I, 4#3, a, p.cmdCurrent)
  | .rdvalP a => some (.rdval .P, 4#3, a, p.cmdPower)
  | .rdenergy a c => some (.rdenergy, 5#3, a, c)
  | _ => none

/-- The builder requests: SESS.OPEN, SESS.CMD, REQ.INST, REQ.ENRG. -/
def isBuilder : Instr → Bool
  | .sessOpen _ => true
  | .sessCmd _ _ => true
  | .reqInst _ _ => true
  | .reqEnrg _ _ => true
  | _ => false

/-- The requests the engine turns away by a code. -/
def isIllegal : Instr → Bool
  | .illegalOperation _ _ _ => true
  | .illegalOperand _ _ => true
  | _ => false

/-- The instructions a request word decodes to. -/
def isRequest (i : Instr) : Bool :=
  isBuilder i || isIllegal i || (parserRequest Params.reference i).isSome

/-- The response frames. -/
def isResponse : Instr → Bool
  | .fAck _ _ _ => true
  | .fMeas12 _ _ _ _ _ => true
  | .fMeas15 _ _ _ _ _ _ => true
  | .fEnergy _ _ _ _ _ _ _ => true
  | _ => false

/-- A safe run's step: the operation ended on its success path (R17, R25). -/
def State.succeeded (s : State) : Bool := !s.busy && s.status == stOk

/-- Bytes at the head of the RX stream. -/
def onStream (bytes : List Byte) : List RxItem := bytes.map .byte

end Sys2Proof.Machine
end

