-- ==== Sys2Proof/Certificates/Slice0/Obligations.lean ====
section
/-! DEFINITION. The statements for the provers. Each docstring names the rules of spec/ it formalises, or the model's own
choice it is about. In them `frame h` is the covered bytes `h` followed by their checksum, low byte first (00_scope.md
R13), and `onStream bs` is the bytes `bs` waiting at the head of the RX stream. A request statement's `busy = false` is
the idle engine of 10_state.md R22. -/

open Sys2Proof Sys2Proof.Machine

/-! ## Reset -/

/-- R33. -/
def Obligations.ResetLeavesTheListedValues : Prop :=
  State.reset.op = 0#3 ∧ State.reset.addr = 0x00#8 ∧ State.reset.cmd = 0x00#8 ∧ State.reset.busy = false ∧
  State.reset.status = 0#3 ∧ State.reset.ready = false ∧
  (∀ ph ∈ [State.reset.triple.v, State.reset.triple.i, State.reset.triple.p],
    ph.p0 = 0x0000FFFF#32 ∧ ph.p1 = 0x0000FFFF#32 ∧ ph.p2 = 0x0000FFFF#32) ∧
  State.reset.energy = 0xFFFFFFFF#32 ∧ State.reset.crcOut = 0xFFFF#16 ∧ State.reset.acc = 0xFFFF#16 ∧
  (∀ i, State.reset.txBuf.read i = 0x00#8) ∧ (∀ i, State.reset.rxBuf.read i = 0x00#8)

/-- R240, R241, R242: the reset input, in every state and so during a blocked operation too: the block is as after
reset, no transport call is issued, and the stream, the line's answers and the calls already made stay. -/
def Obligations.ResetInputRestoresTheBlockOnly : Prop :=
  ∀ (s : State) (rest : List Input), s.inputs = .reset :: rest →
    step s = .next { State.reset with params := s.params, inputs := rest, rx := s.rx, txAnswers := s.txAnswers
                                      txCalls := s.txCalls, history := s.history }

/-- The reset state meets the machine's invariant (the parameters in it are the model's choice, log 4). -/
def Obligations.ResetMeetsTheInvariant : Prop := State.reset.Inv

/-- Every step keeps the invariant: canonical buffers within their sizes (R50 to R53), a legal STATUS (R25), BUSY exactly
while an operation is under way (R22), at most one channel with values (R26), and at every point an operation can stand
at (log 5, log 14) the registers and buffers that R150 and R213 leave there. -/
def Obligations.EveryStepKeepsTheInvariant : Prop :=
  ∀ s t : State, s.Inv → step s = .next t → t.Inv

/-! ## Encoding and decoding -/

/-- Decoding an encoded well-formed instruction gives it back, on every port and for every distinct choice of the open
parameters (R80 to R90). -/
def Obligations.DecodeOfEncodeIsTheInstruction : Prop :=
  ∀ (p : Params) (i : Instr), p.wf = true → i.wf p = true → decode p (encode p i) = .ok i

/-- Every request word is the encoding of what it decodes to, and that is well-formed (R80, R82). -/
def Obligations.EncodeOfADecodedRequestIsTheWord : Prop :=
  ∀ (p : Params) (w : RequestWord), encode p (decodeRequest p w) = .request w ∧ (decodeRequest p w).wf p = true

/-- R82: the decoder is the rule's pseudocode on the three fields, and the opcode table's first matching row decodes all
2^19 words alike. -/
def Obligations.TableRowsDecodeAsThePseudocode : Prop :=
  ∀ (p : Params) (op : BitVec 3) (a c : Byte),
    decodeRequest p (op ++ a ++ c) =
      (if op = 1#3 then (if c = 0x01#8 then .sessOpen a else .sessCmd a c)
       else if op = 2#3 then .chkrdy a c
       else if op = 3#3 then (if 0 < c.toNat ∧ c.toNat < 5 then .reqInst a c else .reqEnrg a c)
       else if op = 4#3 then
         (if c = p.cmdVoltage then .rdvalV a else if c = p.cmdCurrent then .rdvalI a
          else if c = p.cmdPower then .rdvalP a else .illegalOperand a c)
       else if op = 5#3 then .rdenergy a c else .illegalOperation op a c) ∧
    firstRow p (op ++ a ++ c) = some (decodeRequest p (op ++ a ++ c)).mnemonic

/-- A few words of 95_test_vectors.md family 5 decode as the spec lists them, under the reference instantiation. -/
def Obligations.SpecWordsDecodeToTheirOperations : Prop :=
  decodeRequest Params.reference 0x12A01#19 = .sessOpen 0x2A ∧ decodeRequest Params.reference 0x12A02#19 = .sessCmd 0x2A 0x02 ∧
  decodeRequest Params.reference 0x2FFFF#19 = .chkrdy 0xFF 0xFF ∧ decodeRequest Params.reference 0x32A00#19 = .reqEnrg 0x2A 0x00 ∧
  decodeRequest Params.reference 0x32A04#19 = .reqInst 0x2A 0x04 ∧ decodeRequest Params.reference 0x40002#19 = .rdvalI 0x00 ∧
  decodeRequest Params.reference 0x40004#19 = .illegalOperand 0x00 0x04 ∧ decodeRequest Params.reference 0x50000#19 = .rdenergy 0x00 0x00 ∧
  decodeRequest Params.reference 0x7FFFF#19 = .illegalOperation 7#3 0xFF 0xFF

/-! ## Steps -/

/-- A step serves the next move of the outside world (the form of a step is the model's choice, log 1): a request word
runs the operation it decodes to, a message runs CRC16, and with nothing left an idle engine keeps its state. -/
def Obligations.StepRunsTheDecodedRequest : Prop :=
  (∀ (s : State) (w : RequestWord) (rest : List Input), s.inputs = .request w :: rest →
    step s = exec (decodeRequest s.params w) { s with inputs := rest }) ∧
  (∀ (s : State) (m : List Byte) (rest : List Input), s.inputs = .message m :: rest →
    step s = exec (.crc16 m) { s with inputs := rest }) ∧
  (∀ s : State, s.inputs = [] → s.wait = .none → step s = .next s)

/-- Items that arrive, whatever their shape, are delivered to the engine (R55, R213; that an arrival is one move, what its
items are and how a blocked engine goes on is the model's choice, log 1, log 2, log 5); bytes arriving that are a
response frame run that frame's instruction (arrival is the model's meaning of a FRAME-RX row, log 10). -/
def Obligations.ArrivingFrameRunsItsInstruction : Prop :=
  (∀ (s : State) (items : List RxItem) (rest : List Input), s.inputs = .arrive items :: rest →
    step s = .next ({ s with inputs := rest }.deliver items)) ∧
  (∀ (s : State) (f : List Byte) (i : Instr) (rest : List Input),
    decodeRxFrame f = .ok i → s.inputs = .arrive (onStream f) :: rest →
    step s = exec i { s with inputs := rest })

/-- What a delivery does (R55 (a), (b), (c), R207, R213; the items and the points the engine can stand at are the model's
choice, log 2, log 5). With no read outstanding, or one that is still not answered, it only lengthens the stream. A point
of transport failure in the first read ends the operation with STATUS 4; a drain that is answered, with bytes or by a
failure, ends it with the code of the error being reported. (A first read answered with bytes: the statements of the
response frames and of the arrival time.) -/
def Obligations.ArrivalsAnswerTheBlockedRead : Prop :=
  ∀ (s : State) (items : List RxItem),
    ((s.wait = .none ∨ (∃ t, s.wait = .accepted t) ∨ ∃ p e, s.wait = .rejected p e) →
      s.deliver items = { s with rx := s.rx ++ items }) ∧
    (∀ (p : Parser) (bs : List Byte), (s.wait = .read p ∨ ∃ e, s.wait = .drain p e) →
      s.rx ++ items = onStream bs → bs.length < p.readLen → s.deliver items = { s with rx := onStream bs }) ∧
    (∀ (p : Parser) (lost : List Byte) (rest : List RxItem), s.wait = .read p →
      s.rx ++ items = onStream lost ++ .fail :: rest → lost.length < p.readLen →
      s.deliver items =
        ({ s with rx := rest, busy := false, wait := .none, status := 4#3 } : State).failureValue (.parser p)) ∧
    (∀ (p : Parser) (e : Cause) (code : BitVec 3) (rest : List RxItem), s.wait = .drain p e →
      ((e = .checksumMismatch ∧ code = 2#3) ∨ (e = .deviceStatusError ∧ code = 3#3)) →
      ((∃ bs, bs.length = p.readLen ∧ s.rx ++ items = onStream bs ++ rest) ∨
       (∃ bs, bs.length < p.readLen ∧ s.rx ++ items = onStream bs ++ .fail :: rest)) →
      s.deliver items =
        ({ s with rx := rest, busy := false, wait := .none, status := code } : State).failureValue (.parser p))

/-! ## The engine's own moves, one by one -/

/-- The three moves that let the engine stand between its own moves (the model's choice, log 5, log 14): a request word
that an idle engine only accepts, loading the operand registers and BUSY (R21, R22), and that a busy one loses (R246);
one move of the engine; items that arrive and are not looked at yet (R55). With no move left, an engine that is not stuck
goes on (log 6). -/
def Obligations.PacedInputsLetTheEngineStand : Prop :=
  (∀ (s : State) (w : RequestWord) (rest : List Input), s.inputs = .enter w :: rest → s.busy = false →
    ∃ t, requestTask (decodeRequest s.params w) = some t ∧
      step s = .next
        { s with
          inputs := rest, op := w.extractLsb' 16 3, addr := w.extractLsb' 8 8, cmd := w.extractLsb' 0 8
          busy := true, wait := .accepted t }) ∧
  (∀ (s : State) (w : RequestWord) (rest : List Input), s.inputs = .enter w :: rest → s.busy = true →
    step s = .next { s with inputs := rest }) ∧
  (∀ (s : State) (rest : List Input), s.inputs = .advance :: rest →
    step s = .next { s with inputs := rest }.advance) ∧
  (∀ (s : State) (items : List RxItem) (rest : List Input), s.inputs = .queue items :: rest →
    step s = .next { s with inputs := rest, rx := s.rx ++ items }) ∧
  (∀ s : State, s.inputs = [] → s.stuck = false → step s = .next s.goOn)

/-- The engine's moves one by one make the whole operation (R22, R150): a move loses nothing of what going on would do,
and a request word that is accepted and moved on four times ends, or waits, exactly as exec of its instruction does. (The
moves are the model's choice, log 5, log 14; every verdict is of a draining error, R160.) -/
def Obligations.PacedMovesMakeTheWholeOperation : Prop :=
  (∀ s : State, (∀ p e, s.wait = .rejected p e → e.drains = true) → s.advance.goOn = s.goOn) ∧
  (∀ (w : RequestWord) (s : State), s.busy = false →
    exec (decodeRequest s.params w) s = .next (s.enter w).goOn ∧
    exec (decodeRequest s.params w) s = .next (State.advance^[4] (s.enter w)))

/-- R241: a reset abandons the operation at the point it has reached; no further call is issued, no result is written, and
what was done outside stays done. From an idle engine: before the first transport call nothing outside has moved; with
the first read issued that call is made and no byte is taken; after a rejected response its bytes are taken and no drain
is issued; with the drain issued that call is made too. (The points are the model's choice, log 14.) -/
def Obligations.ResetAbandonsAtThePointReached : Prop :=
  ∀ (w : RequestWord) (s : State) (rest : List Input), s.busy = false →
    (s.inputs = .enter w :: .reset :: rest →
      steps 2 s = some { State.reset with params := s.params, inputs := rest, rx := s.rx, txAnswers := s.txAnswers
                                          txCalls := s.txCalls, history := s.history }) ∧
    (∀ (p : Parser) (op : BitVec 3) (a c : Byte), parserRequest s.params (decodeRequest s.params w) = some (p, op, a, c) →
      (s.inputs = .enter w :: .advance :: .reset :: rest →
        steps 3 s = some { State.reset with params := s.params, inputs := rest, rx := s.rx, txAnswers := s.txAnswers
                                            txCalls := s.txCalls, history := s.history ++ [.rx p.readLen] }) ∧
      (∀ (bs : List Byte) (later : List RxItem), s.rx = onStream bs ++ later → bs.length = p.readLen →
        (bs ≠ frame (bs.take (p.readLen - 2)) ∨ (p = .chkrdy ∧ bs.getD 1 0x00#8 ≠ 0x00#8)) →
        (s.inputs = .enter w :: .advance :: .advance :: .reset :: rest →
          steps 4 s = some { State.reset with params := s.params, inputs := rest, rx := later, txAnswers := s.txAnswers
                                              txCalls := s.txCalls, history := s.history ++ [.rx p.readLen] }) ∧
        (s.inputs = .enter w :: .advance :: .advance :: .advance :: .reset :: rest →
          steps 5 s = some { State.reset with params := s.params, inputs := rest, rx := later, txAnswers := s.txAnswers
                                              txCalls := s.txCalls
                                              history := s.history ++ [.rx p.readLen, .rx p.readLen] })))

/-- A move that lets the engine go on leaves it idle, or blocked in a read that the stream does not answer (R22, R213;
which moves let it go on is the model's choice, log 5, log 14). -/
def Obligations.UnpacedMovesSettleTheEngine : Prop :=
  ∀ s t : State, s.settled = true → (∀ i rest, s.inputs = i :: rest → i.paced = false) → step s = .next t →
    t.settled = true

/-- R246: a request presented while BUSY is 1 has no effect of any kind, and a message on the checksum port neither; the
step that presents it changes nothing but the host's list of moves (that such a step is a next state is log 17). -/
def Obligations.RequestToABusyEngineIsLost : Prop :=
  (∀ (i : Instr) (s : State), s.busy = true → isRequest i = true → exec i s = .next s) ∧
  (∀ (m : List Byte) (s : State), s.busy = true → exec (.crc16 m) s = .next s) ∧
  (∀ (s : State) (w : RequestWord) (rest : List Input), s.busy = true → s.inputs = .request w :: rest →
    step s = .next { s with inputs := rest }) ∧
  (∀ (s : State) (m : List Byte) (rest : List Input), s.busy = true → s.inputs = .message m :: rest →
    step s = .next { s with inputs := rest })

/-- A blocked engine whose stream cannot answer and with nothing left to happen stops under the name of the hang (R213;
the named stop is the model's choice, log 6). -/
def Obligations.HungEngineIsStuckByName : Prop :=
  ∀ (s : State) (p : Parser) (pending : List Byte), s.inputs = [] → s.rx = onStream pending → pending.length < p.readLen →
    (s.wait = .read p ∨ ∃ e, s.wait = .drain p e) → step s = .fault .readNeverReturns

/-! ## The Checksum Engine -/

/-- R110: CRC16 of any byte sequence is the rule's loop in plain arithmetic, with the rule's corner cases and example. -/
def Obligations.ChecksumFollowsTheArithmeticRule : Prop :=
  (∀ s : List Byte, (crc16 s).toNat =
    s.foldl (fun acc b => (fun a => if a % 2 = 1 then (a / 2) ^^^ 0xA001 else a / 2)^[8] (acc ^^^ b.toNat)) 0xFFFF) ∧
  crc16 [] = 0xFFFF#16 ∧ crc16 [0xFF#8] = 0x00FF#16 ∧ crc16 [0xFF#8, 0xFF#8] = 0x0000#16 ∧
  crc16 [0x01#8, 0x03#8] = 0x2140#16

/-- R111, R112, R113: the micro-steps write ACC and nothing else; the rules' examples and trace. (That these INTERNAL rows
are executed on their own, in every state, busy or idle, is the model's choice, log 8.) -/
def Obligations.ChecksumMicroStepsWriteOnlyAcc : Prop :=
  (∀ s : State, exec .crcInit s = .next { s with acc := 0xFFFF#16 }) ∧
  (∀ s : State, exec .crcStep s =
    .next { s with acc := if s.acc.toNat % 2 = 1 then (s.acc >>> 1) ^^^ 0xA001#16 else s.acc >>> 1 }) ∧
  (∀ (b : Byte) (s : State), exec (.crcByte b) s =
    .next { s with acc := (fun a : Word16 => if a.toNat % 2 = 1 then (a >>> 1) ^^^ 0xA001#16 else a >>> 1)^[8]
                            (s.acc ^^^ (0x00#8 ++ b)) }) ∧
  0xFFFF#16 ^^^ (0x00#8 ++ 0x01#8) = 0xFFFE#16 ∧
  [0xFFFE#16, 0x7FFF#16, 0x9FFE#16, 0x4FFF#16, 0x87FE#16, 0x43FF#16, 0x81FE#16, 0x40FF#16].map crcStep =
    [0x7FFF#16, 0x9FFE#16, 0x4FFF#16, 0x87FE#16, 0x43FF#16, 0x81FE#16, 0x40FF#16, 0x807E#16] ∧
  0x807E#16 ^^^ (0x00#8 ++ 0x03#8) = 0x807D#16 ∧
  [0x807D#16, 0xE03F#16, 0xD01E#16, 0x680F#16, 0x9406#16, 0x4A03#16, 0x8500#16, 0x4280#16].map crcStep =
    [0xE03F#16, 0xD01E#16, 0x680F#16, 0x9406#16, 0x4A03#16, 0x8500#16, 0x4280#16, 0x2140#16]

/-- R118: a message on the checksum port of an idle engine writes CRCOUT; ACC holds the checksum as after every
computation (10_state.md R29); nothing else changes; a busy engine does not serve the port. -/
def Obligations.ChecksumPortWritesItsResult : Prop :=
  ∀ (m : List Byte) (s : State),
    (s.busy = false → exec (.crc16 m) s = .next { s with crcOut := crc16 m, acc := crc16 m }) ∧
    (s.busy = true → exec (.crc16 m) s = .next s)

/-- R117 (a), (b): a checksum continues over a second part, and a frame's own checksum is zero. -/
def Obligations.ChecksumContinuesAndAFrameLeavesZero : Prop :=
  (∀ s t : List Byte, crc16 (s ++ t) = t.foldl crcByte (crc16 s)) ∧ (∀ s : List Byte, crc16 (frame s) = 0x0000#16)

/-- R117 (c): the eight steps for one byte are one lookup in the table of the steps of each index. -/
def Obligations.OneByteIsOneTableLookup : Prop :=
  ∀ (acc : Word16) (b : Byte),
    crcByte acc b = (acc >>> 8) ^^^ (crcStep^[8] (0x00#8 ++ (acc ^^^ (0x00#8 ++ b)).extractLsb' 0 8)) ∧
    crcStep^[8] 0x0001#16 = 0xC0C1#16 ∧ crcStep^[8] 0x00FF#16 = 0x4040#16

/-! ## The frame builder -/

/-- R130: SESS.OPEN's request word, its frame, its one `TxWrite`, its STATUS, and everything else unchanged. -/
def Obligations.SessOpenSendsTheOpenFrame : Prop :=
  (∀ (a : Byte) (s : State), s.busy = false → ∃ m : Memory,
    exec (.sessOpen a) s = .next
      { s with
        op := 1#3, addr := a, cmd := 0x01#8, busy := false, wait := .none
        txBuf := m, acc := crc16 [a, 0x01#8, 0x01#8, 0x01#8, 0x01#8, 0x01#8, 0x01#8, 0x01#8, 0x01#8]
        status := if s.nextTxAnswer = .ok then 1#3 else 4#3
        txAnswers := s.txAnswers.tail, txCalls := s.txCalls + 1
        history := s.history ++
          [.tx (frame [a, 0x01#8, 0x01#8, 0x01#8, 0x01#8, 0x01#8, 0x01#8, 0x01#8, 0x01#8]) s.nextTxAnswer] } ∧
    ∀ i, m.read i = (frame [a, 0x01#8, 0x01#8, 0x01#8, 0x01#8, 0x01#8, 0x01#8, 0x01#8, 0x01#8]).getD i 0x00#8) ∧
  (∀ (p : Params) (a : Byte), decodeRequest p (1#3 ++ a ++ 0x01#8) = .sessOpen a) ∧
  frame [0x2A#8, 0x01#8, 0x01#8, 0x01#8, 0x01#8, 0x01#8, 0x01#8, 0x01#8, 0x01#8] =
    [0x2A#8, 0x01#8, 0x01#8, 0x01#8, 0x01#8, 0x01#8, 0x01#8, 0x01#8, 0x01#8, 0x90#8, 0xE0#8]

/-- R131: SESS.CMD, for every command but 0x01. -/
def Obligations.SessCmdSendsTheFourByteFrame : Prop :=
  (∀ (a c : Byte) (s : State), c ≠ 0x01#8 → s.busy = false → ∃ m : Memory,
    exec (.sessCmd a c) s = .next
      { s with
        op := 1#3, addr := a, cmd := c, busy := false, wait := .none, txBuf := m, acc := crc16 [a, c]
        status := if s.nextTxAnswer = .ok then 1#3 else 4#3
        txAnswers := s.txAnswers.tail, txCalls := s.txCalls + 1
        history := s.history ++ [.tx (frame [a, c]) s.nextTxAnswer] } ∧
    ∀ i, m.read i = (frame [a, c]).getD i 0x00#8) ∧
  (∀ (p : Params) (a c : Byte), c ≠ 0x01#8 → decodeRequest p (1#3 ++ a ++ c) = .sessCmd a c) ∧
  frame [0x2A#8, 0x02#8] = [0x2A#8, 0x02#8, 0x9F#8, 0x11#8]

/-- R132: REQ.INST, for the commands 1 to 4. -/
def Obligations.ReqInstSendsTheFirstPair : Prop :=
  (∀ (a c : Byte) (s : State), 0 < c.toNat → c.toNat < 5 → s.busy = false → ∃ m : Memory,
    exec (.reqInst a c) s = .next
      { s with
        op := 3#3, addr := a, cmd := c, busy := false, wait := .none
        txBuf := m, acc := crc16 [a, 0x05#8, 0x00#8, c]
        status := if s.nextTxAnswer = .ok then 1#3 else 4#3
        txAnswers := s.txAnswers.tail, txCalls := s.txCalls + 1
        history := s.history ++ [.tx (frame [a, 0x05#8, 0x00#8, c]) s.nextTxAnswer] } ∧
    ∀ i, m.read i = (frame [a, 0x05#8, 0x00#8, c]).getD i 0x00#8) ∧
  (∀ (p : Params) (a c : Byte), 0 < c.toNat → c.toNat < 5 → decodeRequest p (3#3 ++ a ++ c) = .reqInst a c) ∧
  frame [0x2A#8, 0x05#8, 0x00#8, 0x02#8] = [0x2A#8, 0x05#8, 0x00#8, 0x02#8, 0x99#8, 0xFC#8]

/-- R133: REQ.ENRG, for the command 0 and the commands from 5. -/
def Obligations.ReqEnrgSendsTheSecondPair : Prop :=
  (∀ (a c : Byte) (s : State), (c.toNat = 0 ∨ 5 ≤ c.toNat) → s.busy = false → ∃ m : Memory,
    exec (.reqEnrg a c) s = .next
      { s with
        op := 3#3, addr := a, cmd := c, busy := false, wait := .none
        txBuf := m, acc := crc16 [a, 0x08#8, 0x16#8, c]
        status := if s.nextTxAnswer = .ok then 1#3 else 4#3
        txAnswers := s.txAnswers.tail, txCalls := s.txCalls + 1
        history := s.history ++ [.tx (frame [a, 0x08#8, 0x16#8, c]) s.nextTxAnswer] } ∧
    ∀ i, m.read i = (frame [a, 0x08#8, 0x16#8, c]).getD i 0x00#8) ∧
  (∀ (p : Params) (a c : Byte), (c.toNat = 0 ∨ 5 ≤ c.toNat) → decodeRequest p (3#3 ++ a ++ c) = .reqEnrg a c) ∧
  frame [0x2A#8, 0x08#8, 0x16#8, 0x09#8] = [0x2A#8, 0x08#8, 0x16#8, 0x09#8, 0x47#8, 0x98#8]

/-- R136: whatever a builder hands to the transport passes the trailer check and has its operation's length. -/
def Obligations.BuiltFramesPassTheCheck : Prop :=
  ∀ (i : Instr) (s t : State), isBuilder i = true → s.busy = false → exec i s = .next t →
    ∃ (f : List Byte) (r : TxAnswer), t.history = s.history ++ [.tx f r] ∧
      ((∃ a, i = .sessOpen a) → f.length = 11) ∧ ((∃ a c, i = .sessCmd a c) → f.length = 4) ∧
      ((∃ a c, i = .reqInst a c ∨ i = .reqEnrg a c) → f.length = 6) ∧
      f.getD (f.length - 2) 0x00#8 = (crc16 (f.take (f.length - 2))).extractLsb' 0 8 ∧
      f.getD (f.length - 1) 0x00#8 = (crc16 (f.take (f.length - 2))).extractLsb' 8 8

/-- The answer of a `TxWrite` (R54): the next one the state lists; where it lists none, a free value (the model's
choice, log 3), and a builder completes either way. -/
def Obligations.WriteAnswerIsListedOrFree : Prop :=
  (∀ (s : State) (r : TxAnswer) (more : List TxAnswer), s.txAnswers = r :: more → s.nextTxAnswer = r) ∧
  (∀ s : State, s.txAnswers = [] → s.nextTxAnswer = Config.freeTxAnswer s.txCalls) ∧
  (∀ (i : Instr) (s : State), isBuilder i = true → s.busy = false → ∃ t, exec i s = .next t ∧ t.busy = false ∧
    (t.status = 1#3 ∨ t.status = 4#3))

/-- The four FRAME-TX rows build their frame in a cleared TXBUF, leave its checksum in ACC, and change nothing else
(R84 to R86; that a row is the building and not the sending is the model's choice, log 9). -/
def Obligations.RequestFramesAreBuiltInTxbuf : Prop :=
  ∀ (i : Instr) (h : List Byte) (s : State),
    ((∃ a, i = .fOpen a ∧ h = [a, 0x01#8, 0x01#8, 0x01#8, 0x01#8, 0x01#8, 0x01#8, 0x01#8, 0x01#8]) ∨
     (∃ a c, i = .fSess a c ∧ h = [a, c]) ∨
     (∃ a c, i = .fReqInst a c ∧ h = [a, 0x05#8, 0x00#8, c]) ∨
     (∃ a c, i = .fReqEnrg a c ∧ h = [a, 0x08#8, 0x16#8, c])) →
    ∃ m : Memory, exec i s = .next { s with txBuf := m, acc := crc16 h } ∧ m.wf = true ∧
      ∀ k, m.read k = (frame h).getD k 0x00#8

/-! ## Reading the stream -/

/-- R55: for every stream and count exactly one thing happens: the next n bytes are given, or the transport gives up
before the count is reached, or the read is not answered. (What a failed read leaves is the model's choice, log 2.) -/
def Obligations.ReadGivesBytesOrFailsOrWaits : Prop :=
  ∀ (n : Nat) (r : List RxItem),
    (∃ bs rest, bs.length = n ∧ r = onStream bs ++ rest ∧ rxTake n r = .got bs rest) ∨
    (∃ lost rest, lost.length < n ∧ r = onStream lost ++ .fail :: rest ∧ rxTake n r = .failed rest) ∨
    (∃ pending, pending.length < n ∧ r = onStream pending ∧ rxTake n r = .silent)

/-- R95: the response lengths, and the drain's length is the same count (R160). -/
def Obligations.ResponseLengthsAndDrainLengths : Prop :=
  Parser.readLen .chkrdy = 4 ∧ Parser.readLen (.rdval .V) = 12 ∧ Parser.readLen (.rdval .I) = 12 ∧
  Parser.readLen (.rdval .P) = 15 ∧ Parser.readLen .rdenergy = 19 ∧ ∀ p : Parser, p.drainLen = p.readLen

/-! ## The parser operations: success -/

/-- CHKRDY on an acknowledgment with the right trailer and status 0 (R151's success path): READY 1, STATUS 1, one read
of four bytes; index 0 is compared with nothing. -/
def Obligations.ChkrdyReportsReadiness : Prop :=
  ∀ (a c x : Byte) (rest : List RxItem) (s : State), s.busy = false → s.rx = onStream (frame [x, 0x00#8]) ++ rest →
    ∃ m : Memory,
      exec (.chkrdy a c) s = .next
        { s with
          op := 2#3, addr := a, cmd := c, busy := false, wait := .none, status := 1#3, ready := true
          rxBuf := m, acc := crc16 [x, 0x00#8], rx := rest, history := s.history ++ [.rx 4] } ∧
      ∀ i, m.read i = (frame [x, 0x00#8]).getD i 0x00#8

/-- RDVAL.V on a 12-byte response with the right trailer (R154): three fields decoded with DEC24 from indices 1 to 9,
the other two channels sentinel; the rule's example. -/
def Obligations.RdvalVDecodesTheVoltages : Prop :=
  (∀ (a x b1 b2 b3 b4 b5 b6 b7 b8 b9 : Byte) (rest : List RxItem) (s : State), s.busy = false →
    s.rx = onStream (frame [x, b1, b2, b3, b4, b5, b6, b7, b8, b9]) ++ rest →
    ∃ m : Memory,
      exec (.rdvalV a) s = .next
        { s with
          op := 4#3, addr := a, cmd := s.params.cmdVoltage, busy := false, wait := .none, status := 1#3
          triple :=
            { v := { p0 := 0x00#8 ++ b1 ++ b3 ++ b2, p1 := 0x00#8 ++ b4 ++ b6 ++ b5, p2 := 0x00#8 ++ b7 ++ b9 ++ b8 }
              i := { p0 := 0xFFFF#32, p1 := 0xFFFF#32, p2 := 0xFFFF#32 }
              p := { p0 := 0xFFFF#32, p1 := 0xFFFF#32, p2 := 0xFFFF#32 } }
          rxBuf := m, acc := crc16 [x, b1, b2, b3, b4, b5, b6, b7, b8, b9], rx := rest
          history := s.history ++ [.rx 12] } ∧
      ∀ i, m.read i = (frame [x, b1, b2, b3, b4, b5, b6, b7, b8, b9]).getD i 0x00#8) ∧
  (∀ (p : Params) (a : Byte), decodeRequest p (4#3 ++ a ++ p.cmdVoltage) = .rdvalV a) ∧
  frame [0x2A#8, 0x00#8, 0xD8#8, 0x59#8, 0x00#8, 0x6E#8, 0x5A#8, 0x00#8, 0x7B#8, 0x59#8] =
    [0x2A#8, 0x00#8, 0xD8#8, 0x59#8, 0x00#8, 0x6E#8, 0x5A#8, 0x00#8, 0x7B#8, 0x59#8, 0x8D#8, 0x69#8] ∧
  0x00#8 ++ 0x00#8 ++ 0x59#8 ++ 0xD8#8 = 23000#32 ∧ 0x00#8 ++ 0x00#8 ++ 0x5A#8 ++ 0x6E#8 = 23150#32 ∧
  0x00#8 ++ 0x00#8 ++ 0x59#8 ++ 0x7B#8 = 22907#32

/-- RDVAL.I (R155): as RDVAL.V with the Current channel; the rule's example. -/
def Obligations.RdvalIDecodesTheCurrents : Prop :=
  (∀ (a x b1 b2 b3 b4 b5 b6 b7 b8 b9 : Byte) (rest : List RxItem) (s : State), s.busy = false →
    s.rx = onStream (frame [x, b1, b2, b3, b4, b5, b6, b7, b8, b9]) ++ rest →
    ∃ m : Memory,
      exec (.rdvalI a) s = .next
        { s with
          op := 4#3, addr := a, cmd := s.params.cmdCurrent, busy := false, wait := .none, status := 1#3
          triple :=
            { v := { p0 := 0xFFFF#32, p1 := 0xFFFF#32, p2 := 0xFFFF#32 }
              i := { p0 := 0x00#8 ++ b1 ++ b3 ++ b2, p1 := 0x00#8 ++ b4 ++ b6 ++ b5, p2 := 0x00#8 ++ b7 ++ b9 ++ b8 }
              p := { p0 := 0xFFFF#32, p1 := 0xFFFF#32, p2 := 0xFFFF#32 } }
          rxBuf := m, acc := crc16 [x, b1, b2, b3, b4, b5, b6, b7, b8, b9], rx := rest
          history := s.history ++ [.rx 12] } ∧
      ∀ i, m.read i = (frame [x, b1, b2, b3, b4, b5, b6, b7, b8, b9]).getD i 0x00#8) ∧
  (∀ (p : Params) (a : Byte), p.cmdCurrent ≠ p.cmdVoltage → decodeRequest p (4#3 ++ a ++ p.cmdCurrent) = .rdvalI a) ∧
  frame [0x2A#8, 0x00#8, 0xDC#8, 0x05#8, 0x00#8, 0x10#8, 0x27#8, 0x01#8, 0x00#8, 0x00#8] =
    [0x2A#8, 0x00#8, 0xDC#8, 0x05#8, 0x00#8, 0x10#8, 0x27#8, 0x01#8, 0x00#8, 0x00#8, 0x93#8, 0xF3#8] ∧
  0x00#8 ++ 0x00#8 ++ 0x05#8 ++ 0xDC#8 = 1500#32 ∧ 0x00#8 ++ 0x00#8 ++ 0x27#8 ++ 0x10#8 = 10000#32 ∧
  0x00#8 ++ 0x01#8 ++ 0x00#8 ++ 0x00#8 = 65536#32

/-- RDVAL.P on a 15-byte response with the right trailer (R156, R181): indices 1 to 3 skipped, three fields from
indices 4 to 12, the first byte's high nibble masked, the assembled number divided by 100 with the remainder dropped
(the dropped remainder is the spec's decision D6). -/
def Obligations.RdvalPDecodesThePowers : Prop :=
  (∀ (a x y1 y2 y3 b1 b2 b3 b4 b5 b6 b7 b8 b9 : Byte) (rest : List RxItem) (s : State), s.busy = false →
    s.rx = onStream (frame [x, y1, y2, y3, b1, b2, b3, b4, b5, b6, b7, b8, b9]) ++ rest →
    ∃ (m : Memory) (q0 q1 q2 : Slot),
      exec (.rdvalP a) s = .next
        { s with
          op := 4#3, addr := a, cmd := s.params.cmdPower, busy := false, wait := .none, status := 1#3
          triple :=
            { v := { p0 := 0xFFFF#32, p1 := 0xFFFF#32, p2 := 0xFFFF#32 }
              i := { p0 := 0xFFFF#32, p1 := 0xFFFF#32, p2 := 0xFFFF#32 }
              p := { p0 := q0, p1 := q1, p2 := q2 } }
          rxBuf := m, acc := crc16 [x, y1, y2, y3, b1, b2, b3, b4, b5, b6, b7, b8, b9], rx := rest
          history := s.history ++ [.rx 15] } ∧
      q0.toNat = ((b1.toNat % 16) * 0x10000 + b3.toNat * 0x100 + b2.toNat) / 100 ∧
      q1.toNat = ((b4.toNat % 16) * 0x10000 + b6.toNat * 0x100 + b5.toNat) / 100 ∧
      q2.toNat = ((b7.toNat % 16) * 0x10000 + b9.toNat * 0x100 + b8.toNat) / 100 ∧
      ∀ i, m.read i = (frame [x, y1, y2, y3, b1, b2, b3, b4, b5, b6, b7, b8, b9]).getD i 0x00#8) ∧
  (∀ (p : Params) (a : Byte), p.wf = true → decodeRequest p (4#3 ++ a ++ p.cmdPower) = .rdvalP a) ∧
  frame [0x2A#8, 0x40#8, 0x10#8, 0x27#8, 0x40#8, 0x40#8, 0x1F#8, 0xC1#8, 0xA0#8, 0x86#8, 0x00#8, 0x63#8, 0x00#8] =
    [0x2A#8, 0x40#8, 0x10#8, 0x27#8, 0x40#8, 0x40#8, 0x1F#8, 0xC1#8, 0xA0#8, 0x86#8, 0x00#8, 0x63#8, 0x00#8,
     0xCB#8, 0x8C#8] ∧
  (dec24p 0x40#8 0x40#8 0x1F#8).toNat = 80 ∧ (dec24p 0xC1#8 0xA0#8 0x86#8).toNat = 1000 ∧
  (dec24p 0x00#8 0x63#8 0x00#8).toNat = 0

/-- RDENERGY on a 19-byte response with the right trailer (R158's success path): indices 1 to 4 word-swapped, the twelve
bytes behind them covered and not decoded; the source's example. -/
def Obligations.RdenergyDecodesTheCounter : Prop :=
  (∀ (a c x e1 e2 e3 e4 : Byte) (others : List Byte) (rest : List RxItem) (s : State), s.busy = false →
    others.length = 12 → s.rx = onStream (frame ([x, e1, e2, e3, e4] ++ others)) ++ rest →
    ∃ m : Memory,
      exec (.rdenergy a c) s = .next
        { s with
          op := 5#3, addr := a, cmd := c, busy := false, wait := .none, status := 1#3
          energy := e2 ++ e1 ++ e4 ++ e3
          rxBuf := m, acc := crc16 ([x, e1, e2, e3, e4] ++ others), rx := rest
          history := s.history ++ [.rx 19] } ∧
      ∀ i, m.read i = (frame ([x, e1, e2, e3, e4] ++ others)).getD i 0x00#8) ∧
  (∀ (p : Params) (a c : Byte), decodeRequest p (5#3 ++ a ++ c) = .rdenergy a c) ∧
  frame ([0x2A#8, 0x10#8, 0x20#8, 0x30#8, 0x40#8] ++ List.replicate 12 0x00#8) =
    [0x2A#8, 0x10#8, 0x20#8, 0x30#8, 0x40#8] ++ List.replicate 12 0x00#8 ++ [0xAC#8, 0x3C#8] ∧
  0x20#8 ++ 0x10#8 ++ 0x40#8 ++ 0x30#8 = 0x20104030#32

/-! ## The parser operations: errors, drain and hang -/

/-- R161: the failure value of each parser operation, and nothing else written. -/
def Obligations.FailureValuesOfTheParsers : Prop :=
  ∀ s : State,
    s.failureValue (.parser .chkrdy) = { s with ready := false } ∧
    (∀ ch, s.failureValue (.parser (.rdval ch)) =
      { s with triple := { v := { p0 := 0xFFFF#32, p1 := 0xFFFF#32, p2 := 0xFFFF#32 }
                           i := { p0 := 0xFFFF#32, p1 := 0xFFFF#32, p2 := 0xFFFF#32 }
                           p := { p0 := 0xFFFF#32, p1 := 0xFFFF#32, p2 := 0xFFFF#32 } } }) ∧
    s.failureValue (.parser .rdenergy) = { s with energy := 0xFFFFFFFF#32 }

/-- R205 (with R150, R160): a response whose trailer is not the checksum of the bytes before it. The failure value,
STATUS 2, nothing decoded; one drain read of the same count, whose bytes or failure change nothing; a drain that is not
answered leaves the engine busy with the old STATUS (R213). -/
def Obligations.WrongTrailerDrainsAndFails : Prop :=
  ∀ (i : Instr) (p : Parser) (op : BitVec 3) (a c : Byte) (bs : List Byte) (rest : List RxItem) (s : State),
    s.busy = false → parserRequest s.params i = some (p, op, a, c) → bs.length = p.readLen →
    bs ≠ frame (bs.take (p.readLen - 2)) → s.rx = onStream bs ++ rest →
    ∃ m : Memory, (∀ k, m.read k = bs.getD k 0x00#8) ∧
      (∀ rest', ((∃ ds, ds.length = p.readLen ∧ rest = onStream ds ++ rest') ∨
          (∃ ds, ds.length < p.readLen ∧ rest = onStream ds ++ .fail :: rest')) →
        exec i s = .next
          (({ s with
             op := op, addr := a, cmd := c, busy := false, wait := .none, status := 2#3
             rxBuf := m, acc := crc16 (bs.take (p.readLen - 2)), rx := rest'
             history := s.history ++ [.rx p.readLen, .rx p.readLen] } : State).failureValue (.parser p))) ∧
      (∀ ds, ds.length < p.readLen → rest = onStream ds →
        exec i s = .next
          (({ s with
             op := op, addr := a, cmd := c, busy := true, wait := .drain p .checksumMismatch
             rxBuf := m, acc := crc16 (bs.take (p.readLen - 2)), rx := rest
             history := s.history ++ [.rx p.readLen, .rx p.readLen] } : State).failureValue (.parser p)))

/-- R206 (with R151, R160): an acknowledgment with the right trailer and any non-zero status byte. READY 0, STATUS 3,
after one drain read of four bytes. -/
def Obligations.NonZeroStatusDrainsAndFails : Prop :=
  ∀ (a c x status : Byte) (rest : List RxItem) (s : State),
    s.busy = false → status ≠ 0x00#8 → s.rx = onStream (frame [x, status]) ++ rest →
    ∃ m : Memory, (∀ k, m.read k = (frame [x, status]).getD k 0x00#8) ∧
      (∀ rest', ((∃ ds, ds.length = 4 ∧ rest = onStream ds ++ rest') ∨
          (∃ ds, ds.length < 4 ∧ rest = onStream ds ++ .fail :: rest')) →
        exec (.chkrdy a c) s = .next
          { s with
            op := 2#3, addr := a, cmd := c, busy := false, wait := .none, status := 3#3, ready := false
            rxBuf := m, acc := crc16 [x, status], rx := rest', history := s.history ++ [.rx 4, .rx 4] }) ∧
      (∀ ds, ds.length < 4 → rest = onStream ds →
        exec (.chkrdy a c) s = .next
          { s with
            op := 2#3, addr := a, cmd := c, busy := true, wait := .drain .chkrdy .deviceStatusError, ready := false
            rxBuf := m, acc := crc16 [x, status], rx := rest, history := s.history ++ [.rx 4, .rx 4] })

/-- R207: a transport failure of the first call. A parser writes its failure value and STATUS 4, decodes nothing and
issues no drain; a builder writes STATUS 4 only. (Which bytes a failed read has consumed is the model's choice, log 2.) -/
def Obligations.TransportFailureIsReportedWithoutADrain : Prop :=
  (∀ (i : Instr) (p : Parser) (op : BitVec 3) (a c : Byte) (lost : List Byte) (rest : List RxItem) (s : State),
    s.busy = false → parserRequest s.params i = some (p, op, a, c) → lost.length < p.readLen →
    s.rx = onStream lost ++ .fail :: rest →
    exec i s = .next
      (({ s with
         op := op, addr := a, cmd := c, busy := false, wait := .none, status := 4#3, rxBuf := Memory.cleared
         rx := rest, history := s.history ++ [.rx p.readLen] } : State).failureValue (.parser p))) ∧
  (∀ (i : Instr) (s : State) (more : List TxAnswer), s.busy = false → isBuilder i = true →
    s.txAnswers = .fail :: more →
    ∃ t, exec i s = .next t ∧ t.status = 4#3 ∧ t.busy = false ∧ t.ready = s.ready ∧ t.triple = s.triple ∧
      t.energy = s.energy ∧ t.crcOut = s.crcOut ∧ t.rx = s.rx ∧ ∃ f, t.history = s.history ++ [.tx f .fail])

/-- R213 (with R150): a first read that is not answered. BUSY stays 1, STATUS keeps the previous operation's code, the
result register holds the failure value written at the start. -/
def Obligations.UnansweredReadLeavesTheEngineBusy : Prop :=
  ∀ (i : Instr) (p : Parser) (op : BitVec 3) (a c : Byte) (pending : List Byte) (s : State),
    s.busy = false → parserRequest s.params i = some (p, op, a, c) → pending.length < p.readLen →
    s.rx = onStream pending →
    exec i s = .next
      (({ s with
         op := op, addr := a, cmd := c, busy := true, wait := .read p, rxBuf := Memory.cleared
         history := s.history ++ [.rx p.readLen] } : State).failureValue (.parser p))

/-- When the bytes arrive does not matter (R55, R56, R213): a request served on a stream and then given more items ends
exactly as the request served on the longer stream, whether it had to wait or not. (The stream's items, bytes and points
of failure, are the model's choice, log 2; so is how a blocked engine is held and goes on, log 5.) -/
def Obligations.ArrivalTimeIsNotObservable : Prop :=
  ∀ (i : Instr) (s : State) (more : List RxItem), s.busy = false → isRequest i = true →
    ∃ t, exec i s = .next t ∧ exec i { s with rx := s.rx ++ more } = .next (t.deliver more)

/-! ## Illegal requests -/

/-- R208: a reserved operation code. Accepted, no transport call, no result register, STATUS 5 (the cause is the spec's
own decision D25; that the model takes the effect where R93 says refused is log 16). -/
def Obligations.ReservedCodeOnlyWritesStatus : Prop :=
  (∀ (op : BitVec 3) (a c : Byte) (s : State), s.busy = false → (op = 0#3 ∨ op = 6#3 ∨ op = 7#3) →
    exec (.illegalOperation op a c) s = .next
      { s with op := op, addr := a, cmd := c, busy := false, wait := .none, status := 5#3 }) ∧
  (∀ (p : Params) (op : BitVec 3) (a c : Byte), (op = 0#3 ∨ op = 6#3 ∨ op = 7#3) →
    decodeRequest p (op ++ a ++ c) = .illegalOperation op a c)

/-- R209: an RDVAL whose command is none of the three parameters. No transport call, nine sentinels, STATUS 6 (the
spec's own decision D8; that the model takes the effect where R209 suggests a refusal is log 16). -/
def Obligations.UnknownChannelClearsTheTriple : Prop :=
  (∀ (a c : Byte) (s : State), s.busy = false →
    c ≠ s.params.cmdVoltage → c ≠ s.params.cmdCurrent → c ≠ s.params.cmdPower →
    exec (.illegalOperand a c) s = .next
      { s with
        op := 4#3, addr := a, cmd := c, busy := false, wait := .none, status := 6#3
        triple := { v := { p0 := 0xFFFF#32, p1 := 0xFFFF#32, p2 := 0xFFFF#32 }
                    i := { p0 := 0xFFFF#32, p1 := 0xFFFF#32, p2 := 0xFFFF#32 }
                    p := { p0 := 0xFFFF#32, p1 := 0xFFFF#32, p2 := 0xFFFF#32 } } }) ∧
  (∀ (p : Params) (a c : Byte), c ≠ p.cmdVoltage → c ≠ p.cmdCurrent → c ≠ p.cmdPower →
    decodeRequest p (4#3 ++ a ++ c) = .illegalOperand a c)

/-! ## The decoders -/

/-- A decoder row executed on its own hands its result back in `decOut` and changes nothing else (that register is the
model's choice, log 7, and so is that the row is executed on its own in every state, log 8; the results are R180's,
R181's and R183's, stated of the three functions below; that DEC24P drops the remainder is the spec's own decision D6,
"the rounding is this spec's choice"). -/
def Obligations.DecoderRowsHandBackTheirResult : Prop :=
  ∀ (b0 b1 b2 b3 : Byte) (s : State),
    exec (.dec24 b0 b1 b2) s = .next { s with decOut := 0x00#8 ++ b0 ++ b2 ++ b1 } ∧
    (∃ v : Word32, exec (.dec24p b0 b1 b2) s = .next { s with decOut := v } ∧
      v.toNat = ((b0.toNat % 16) * 0x10000 + b2.toNat * 0x100 + b1.toNat) / 100) ∧
    exec (.dec32 b0 b1 b2 b3) s = .next { s with decOut := b1 ++ b0 ++ b3 ++ b2 }

/-- R180: DEC24's value, its being a bijection, the rule's corner cases and example. -/
def Obligations.Dec24AssemblesTopLowMiddle : Prop :=
  (∀ b0 b1 b2 : Byte, dec24 b0 b1 b2 = b0 ++ b2 ++ b1) ∧
  (∀ b0 b1 b2 : Byte, (dec24 b0 b1 b2).toNat = b0.toNat * 0x10000 + b2.toNat * 0x100 + b1.toNat) ∧
  (∀ v : BitVec 24, ∃ b0 b1 b2 : Byte, dec24 b0 b1 b2 = v ∧
    ∀ c0 c1 c2 : Byte, dec24 c0 c1 c2 = v → c0 = b0 ∧ c1 = b1 ∧ c2 = b2) ∧
  dec24 0x00#8 0x00#8 0x00#8 = 0x000000#24 ∧ dec24 0xFF#8 0xFF#8 0xFF#8 = 0xFFFFFF#24 ∧
  dec24 0x00#8 0xFF#8 0xFF#8 = 0x00FFFF#24 ∧ dec24 0x01#8 0x02#8 0x03#8 = 0x010302#24 ∧
  dec24 0x00#8 0xD8#8 0x59#8 = 23000#24

/-- R181: DEC24P masks, assembles, divides by 100 and drops the remainder; its largest value; the masked nibble never
matters; the rule's corner cases and example (that the remainder is dropped is the spec's own decision, "the rounding
is this spec's choice"). -/
def Obligations.Dec24pMasksAndDivides : Prop :=
  (∀ b0 b1 b2 : Byte,
    (dec24p b0 b1 b2).toNat = ((b0.toNat % 16) * 0x10000 + b2.toNat * 0x100 + b1.toNat) / 100 ∧
    (dec24p b0 b1 b2).toNat ≤ 10485) ∧
  (∀ b0 c0 b1 b2 : Byte, b0.toNat % 16 = c0.toNat % 16 → dec24p b0 b1 b2 = dec24p c0 b1 b2) ∧
  (dec24p 0xF0#8 0x00#8 0x00#8).toNat = 0 ∧ (dec24p 0xFF#8 0xFF#8 0xFF#8).toNat = 10485 ∧
  (dec24p 0x00#8 0x63#8 0x00#8).toNat = 0 ∧ (dec24p 0x00#8 0x64#8 0x00#8).toNat = 1 ∧
  (dec24p 0x00#8 0xC7#8 0x00#8).toNat = 1 ∧ (dec24p 0xC1#8 0xA0#8 0x86#8).toNat = 1000

/-- R183: DEC32's value, its being a bijection, the rule's corner cases and example. -/
def Obligations.Dec32SwapsTheWords : Prop :=
  (∀ e1 e2 e3 e4 : Byte, dec32 e1 e2 e3 e4 = e2 ++ e1 ++ e4 ++ e3) ∧
  (∀ e1 e2 e3 e4 : Byte, (dec32 e1 e2 e3 e4).toNat =
    e2.toNat * 0x1000000 + e1.toNat * 0x10000 + e4.toNat * 0x100 + e3.toNat) ∧
  (∀ v : Word32, ∃ e1 e2 e3 e4 : Byte, dec32 e1 e2 e3 e4 = v ∧
    ∀ f1 f2 f3 f4 : Byte, dec32 f1 f2 f3 f4 = v → f1 = e1 ∧ f2 = e2 ∧ f3 = e3 ∧ f4 = e4) ∧
  dec32 0x00#8 0x00#8 0x00#8 0x00#8 = 0#32 ∧ dec32 0xFF#8 0xFF#8 0xFF#8 0xFF#8 = 0xFFFFFFFF#32 ∧
  dec32 0x01#8 0x02#8 0x03#8 0x04#8 = 0x02010403#32 ∧ dec32 0x10#8 0x20#8 0x30#8 0x40#8 = 0x20104030#32

/-! ## The response frames -/

/-- A response frame that reaches an engine with no read outstanding is kept in the RX stream, byte for byte in wire order
(R87 to R90, R55; log 10), and nothing else changes. -/
def Obligations.ResponseFramesQueueInWireOrder : Prop :=
  ∀ (i : Instr) (bs : List Byte) (s : State),
    (s.wait = .none ∨ (∃ t, s.wait = .accepted t) ∨ ∃ p e, s.wait = .rejected p e) →
    ((∃ x st k, i = .fAck x st k ∧ bs = [x, st, k.extractLsb' 0 8, k.extractLsb' 8 8]) ∨
     (∃ x f0 f1 f2 k, i = .fMeas12 x f0 f1 f2 k ∧
        bs = [x, f0.b0, f0.b1, f0.b2, f1.b0, f1.b1, f1.b2, f2.b0, f2.b1, f2.b2, k.extractLsb' 0 8, k.extractLsb' 8 8]) ∨
     (∃ x sk f0 f1 f2 k, i = .fMeas15 x sk f0 f1 f2 k ∧
        bs = [x, sk.b0, sk.b1, sk.b2, f0.b0, f0.b1, f0.b2, f1.b0, f1.b1, f1.b2, f2.b0, f2.b1, f2.b2,
              k.extractLsb' 0 8, k.extractLsb' 8 8]) ∨
     (∃ x e1 e2 e3 e4 others k, i = .fEnergy x e1 e2 e3 e4 others k ∧
        bs = [x, e1, e2, e3, e4] ++ others ++ [k.extractLsb' 0 8, k.extractLsb' 8 8])) →
    exec i s = .next { s with rx := s.rx ++ onStream bs }

/-- A response frame with the right trailer that reaches the parser operation blocked in its read on an empty stream ends
it on its success path (R151, R154 to R156, R158; log 10). That RDVAL.P's quotients drop the remainder is the spec's own
decision D6, "the rounding is this spec's choice" (R181). -/
def Obligations.ResponseFrameEndsTheWaitingRead : Prop :=
  ∀ s : State, s.rxBuf = Memory.cleared → s.rx = [] →
    (∀ x, s.wait = .read .chkrdy → ∃ m : Memory, exec (.fAck x 0x00#8 (crc16 [x, 0x00#8])) s =
      .next { s with ready := true, status := 1#3, busy := false, wait := .none, rxBuf := m, acc := crc16 [x, 0x00#8] } ∧
      ∀ i, m.read i = (frame [x, 0x00#8]).getD i 0x00#8) ∧
    (∀ ch x f0 f1 f2, ch ≠ .P → s.wait = .read (.rdval ch) →
      ∃ (m : Memory) (k : Word16), k = crc16 ([x] ++ fieldBytes f0 ++ fieldBytes f1 ++ fieldBytes f2) ∧
        exec (.fMeas12 x f0 f1 f2 k) s = .next
          { s with
            triple := s.triple.set ch { p0 := 0x00#8 ++ f0.b0 ++ f0.b2 ++ f0.b1
                                        p1 := 0x00#8 ++ f1.b0 ++ f1.b2 ++ f1.b1
                                        p2 := 0x00#8 ++ f2.b0 ++ f2.b2 ++ f2.b1 }
            status := 1#3, busy := false, wait := .none, rxBuf := m, acc := k } ∧
        ∀ i, m.read i = (frame ([x] ++ fieldBytes f0 ++ fieldBytes f1 ++ fieldBytes f2)).getD i 0x00#8) ∧
    (∀ x sk f0 f1 f2, s.wait = .read (.rdval .P) →
      ∃ (m : Memory) (k : Word16) (q : Phases),
        k = crc16 ([x] ++ fieldBytes sk ++ fieldBytes f0 ++ fieldBytes f1 ++ fieldBytes f2) ∧
        q.p0.toNat = ((f0.b0.toNat % 16) * 0x10000 + f0.b2.toNat * 0x100 + f0.b1.toNat) / 100 ∧
        q.p1.toNat = ((f1.b0.toNat % 16) * 0x10000 + f1.b2.toNat * 0x100 + f1.b1.toNat) / 100 ∧
        q.p2.toNat = ((f2.b0.toNat % 16) * 0x10000 + f2.b2.toNat * 0x100 + f2.b1.toNat) / 100 ∧
        exec (.fMeas15 x sk f0 f1 f2 k) s = .next
          { s with
            triple := { v := s.triple.v, i := s.triple.i, p := q }
            status := 1#3, busy := false, wait := .none, rxBuf := m, acc := k } ∧
        ∀ i, m.read i =
          (frame ([x] ++ fieldBytes sk ++ fieldBytes f0 ++ fieldBytes f1 ++ fieldBytes f2)).getD i 0x00#8) ∧
    (∀ x e1 e2 e3 e4 others, others.length = 12 → s.wait = .read .rdenergy →
      ∃ (m : Memory) (k : Word16), k = crc16 ([x, e1, e2, e3, e4] ++ others) ∧
        exec (.fEnergy x e1 e2 e3 e4 others k) s = .next
          { s with energy := e2 ++ e1 ++ e4 ++ e3, status := 1#3, busy := false, wait := .none, rxBuf := m, acc := k } ∧
        ∀ i, m.read i = (frame ([x, e1, e2, e3, e4] ++ others)).getD i 0x00#8)

/-! ## Whole-machine rules -/

/-- R21, R22 and R201: every request to an idle engine is accepted, loads the operand registers from its word, and ends
with BUSY 0 and a code from 1 to 6 whatever STATUS held before, or is a parser operation blocked in a read. -/
def Obligations.EveryRequestEndsOrWaits : Prop :=
  ∀ (w : RequestWord) (s : State), s.busy = false → ∃ t, exec (decodeRequest s.params w) s = .next t ∧
    t.op = w.extractLsb' 16 3 ∧ t.addr = w.extractLsb' 8 8 ∧ t.cmd = w.extractLsb' 0 8 ∧
    ((t.busy = false ∧ t.wait = .none ∧ 1 ≤ t.status.toNat ∧ t.status.toNat ≤ 6) ∨
     (t.busy = true ∧ t.wait ≠ .none ∧ t.stuck = true ∧ t.status = s.status ∧
       (parserRequest s.params (decodeRequest s.params w)).isSome = true))

/-- R24, R26, R27, R28: each result register is written by its own operations and by nothing else; a blocked operation
writes when its frame arrives (log 10). -/
def Obligations.ResultRegistersHaveOneWriter : Prop :=
  ∀ (i : Instr) (s t : State), exec i s = .next t →
    (t.ready ≠ s.ready → (∃ a c, i = .chkrdy a c) ∨
      (isResponse i = true ∧ (s.wait = .read .chkrdy ∨ ∃ e, s.wait = .drain .chkrdy e))) ∧
    (t.triple ≠ s.triple → (∃ a, i = .rdvalV a ∨ i = .rdvalI a ∨ i = .rdvalP a) ∨ (∃ a c, i = .illegalOperand a c) ∨
      (isResponse i = true ∧ ∃ ch, (s.wait = .read (.rdval ch) ∨ ∃ e, s.wait = .drain (.rdval ch) e))) ∧
    (t.energy ≠ s.energy → (∃ a c, i = .rdenergy a c) ∨
      (isResponse i = true ∧ (s.wait = .read .rdenergy ∨ ∃ e, s.wait = .drain .rdenergy e))) ∧
    (t.crcOut ≠ s.crcOut → ∃ m, i = .crc16 m)

/-- R157: after any RDVAL, in any ending and also blocked, the channels it was not asked for are all sentinel, and after
one that did not succeed all nine slots are. -/
def Obligations.RdvalLeavesTheOtherChannelsSentinel : Prop :=
  ∀ (i : Instr) (ch : Channel) (op : BitVec 3) (a c : Byte) (s : State), s.busy = false →
    parserRequest s.params i = some (.rdval ch, op, a, c) →
    ∃ t, exec i s = .next t ∧
      (t.succeeded = false → t.triple = Triple.sentinel) ∧
      (ch ≠ .V → t.triple.v = Phases.sentinel) ∧ (ch ≠ .I → t.triple.i = Phases.sentinel) ∧
      (ch ≠ .P → t.triple.p = Phases.sentinel)

/-- R54, R134, R150, R160: the transport calls of one request to an idle engine: one write for a builder; one read, or
that read and one drain of the same count, for a parser, the drain exactly when the outcome is one of the two drained
errors or the engine is blocked in it; none for an illegal request. -/
def Obligations.TransportCallsOfOneRequest : Prop :=
  ∀ (i : Instr) (s t : State), s.busy = false → exec i s = .next t →
    (isBuilder i = true → ∃ f r, t.history = s.history ++ [.tx f r]) ∧
    (isIllegal i = true → t.history = s.history ∧ t.rx = s.rx) ∧
    (∀ p op a c, parserRequest s.params i = some (p, op, a, c) →
      (t.history = s.history ++ [.rx p.readLen] ∧
        ((t.busy = false ∧ (t.status = 1#3 ∨ t.status = 4#3)) ∨ t.wait = .read p)) ∨
      (t.history = s.history ++ [.rx p.readLen, .rx p.readLen] ∧
        ((t.busy = false ∧ (t.status = 2#3 ∨ t.status = 3#3)) ∨ ∃ e, t.wait = .drain p e)))

/-- R29, R30, R150: what ACC and the buffers held before matters to nothing a request, a message or an arriving frame at
an idle engine shows the host or does to the line: two states that differ only there stay so. (Arriving frames as
instructions: log 10.) -/
def Obligations.OldScratchNeverMatters : Prop :=
  ∀ (i : Instr) (s t : State), s.sameButScratch t → s.busy = false → s.wait = .none →
    (isRequest i = true ∨ isResponse i = true ∨ ∃ m, i = .crc16 m) →
    ∃ s' t', exec i s = .next s' ∧ exec i t = .next t' ∧ s'.sameButScratch t' ∧ s'.hostView = t'.hostView

/-- R29, R30, R150, over steps: two states of the invariant that differ at most in ACC and the buffers take the same kind
of step, to states that meet the invariant and again differ at most there, so the host sees the same of both for ever.
(The moves and the points an engine can stand at: log 1, log 5, log 14; the stuck step: log 6.) -/
def Obligations.OldScratchNeverMattersOverSteps : Prop :=
  ∀ s t : State, s.Inv → t.Inv → s.sameButScratch t →
    (∃ s' t', step s = .next s' ∧ step t = .next t' ∧ s'.sameButScratch t' ∧ s'.hostView = t'.hostView ∧
      s'.Inv ∧ t'.Inv) ∨
    (step s = .fault .readNeverReturns ∧ step t = .fault .readNeverReturns)

/-- The parameters are fixed when the block is built (00_scope.md R7, 10_state.md R25), and the calls made on the line
are never taken back, reset or not (R241): over every step. -/
def Obligations.StepsFixParametersAndExtendHistory : Prop :=
  ∀ s t : State, step s = .next t → t.params = s.params ∧ ∃ more, t.history = s.history ++ more
end

