-- ==== Sys2Proof/Laws/Crc.lean ====
section
/-! SUPPORT. The Checksum Engine's functions in arithmetic, and the trailer's two halves (40_crc16.md R110 to R117). -/

namespace Sys2Proof.Machine

/-- CRC.STEP on the accumulator's number (R113). -/
theorem crcStep_toNat (a : Word16) :
    (crcStep a).toNat = if a.toNat % 2 = 1 then (a.toNat / 2) ^^^ 0xA001 else a.toNat / 2 := by
  have h : a.getLsbD 0 = decide (a.toNat % 2 = 1) := by simp [BitVec.getLsbD, Nat.testBit_zero]
  unfold crcStep
  rw [h]
  by_cases h' : a.toNat % 2 = 1 <;> simp [h', Nat.shiftRight_eq_div_pow]

theorem crcSteps_eq_iterate (k : Nat) (a : Word16) : crcSteps k a = crcStep^[k] a := by
  induction k generalizing a with
  | zero => rfl
  | succ k ih => simp [crcSteps, ih]

/-- A shift by one step distributes over XOR: the step is linear. -/
theorem crcStep_xor (a b : Word16) : crcStep (a ^^^ b) = crcStep a ^^^ crcStep b := by
  unfold crcStep
  simp only [BitVec.getLsbD_xor, BitVec.ushiftRight_xor_distrib]
  have h (x y z : Word16) : x ^^^ y ^^^ z = x ^^^ z ^^^ y := by
    rw [BitVec.xor_assoc, BitVec.xor_comm y, BitVec.xor_assoc]
  have h' (x y z : Word16) : x ^^^ y = x ^^^ z ^^^ (y ^^^ z) := by
    rw [h x z, ← BitVec.xor_assoc, BitVec.xor_assoc _ z, BitVec.xor_self, BitVec.xor_zero]
  cases a.getLsbD 0 <;> cases b.getLsbD 0
  · rfl
  · exact BitVec.xor_assoc _ _ _
  · exact h _ _ _
  · exact h' _ _ _

theorem crcSteps_xor (k : Nat) (a b : Word16) : crcSteps k (a ^^^ b) = crcSteps k a ^^^ crcSteps k b := by
  induction k generalizing a b with
  | zero => rfl
  | succ k ih => simp [crcSteps, crcStep_xor, ih]

theorem crcFrom_append (acc : Word16) (s t : List Byte) : crcFrom acc (s ++ t) = crcFrom (crcFrom acc s) t := by
  induction s generalizing acc with
  | nil => rfl
  | cons b s ih => exact ih (crcByte acc b)

@[simp] theorem lo_ofTrailer (a b : Byte) : lo (ofTrailer a b) = a := by
  apply BitVec.eq_of_getLsbD_eq
  intro i h
  simp only [lo, ofTrailer, BitVec.getLsbD_append, BitVec.getLsbD_extractLsb']
  simp [h]

@[simp] theorem hi_ofTrailer (a b : Byte) : hi (ofTrailer a b) = b := by
  apply BitVec.eq_of_getLsbD_eq
  intro i h
  simp only [hi, ofTrailer, BitVec.getLsbD_append, BitVec.getLsbD_extractLsb']
  simp [h, show ¬(8 + i < 8) by omega]

/-- A checksum is its two trailer bytes. -/
@[simp] theorem ofTrailer_lo_hi (c : Word16) : ofTrailer (lo c) (hi c) = c := by
  apply BitVec.eq_of_getLsbD_eq
  intro i h
  simp only [lo, hi, ofTrailer, BitVec.getLsbD_append, BitVec.getLsbD_extractLsb']
  by_cases h8 : i < 8
  · simp [h8]
  · simp [h8, show 8 + (i - 8) = i by omega, show i - 8 < 8 by omega]

end Sys2Proof.Machine
end

