-- ==== Sys2Proof/Laws/Decode.lean ====
section
/-! SUPPORT. The small lemmas of decoding: the fields of a request word, and the operation each code selects. -/

namespace Sys2Proof

open Sys2Proof.Machine

theorem instantaneous_iff (c : Byte) : instantaneous c = true ↔ 0 < c.toNat ∧ c.toNat < 5 := by simp [instantaneous]

@[simp] theorem requestOp_append (op : BitVec 3) (a c : Byte) : requestOp (op ++ a ++ c) = op := by
  apply BitVec.eq_of_getLsbD_eq
  intro i hi
  simp only [requestOp, BitVec.getLsbD_extractLsb', BitVec.getLsbD_append]
  simp [hi, show ¬(16 + i < 8) by omega, show ¬(16 + i - 8 < 8) by omega, show 16 + i - 8 - 8 = i by omega]

@[simp] theorem requestAddress_append (op : BitVec 3) (a c : Byte) : requestAddress (op ++ a ++ c) = a := by
  apply BitVec.eq_of_getLsbD_eq
  intro i hi
  simp only [requestAddress, BitVec.getLsbD_extractLsb', BitVec.getLsbD_append]
  simp [hi, show ¬(8 + i < 8) by omega]

@[simp] theorem requestCommand_append (op : BitVec 3) (a c : Byte) : requestCommand (op ++ a ++ c) = c := by
  apply BitVec.eq_of_getLsbD_eq
  intro i hi
  simp only [requestCommand, BitVec.getLsbD_extractLsb', BitVec.getLsbD_append]
  simp [hi]

/-- A request word is its three fields (R80). -/
theorem request_fields (w : RequestWord) : requestOp w ++ requestAddress w ++ requestCommand w = w := by
  apply BitVec.eq_of_getLsbD_eq
  intro i hi
  simp only [requestOp, requestAddress, requestCommand, BitVec.getLsbD_extractLsb', BitVec.getLsbD_append]
  by_cases h1 : i < 8
  · simp [h1]
  · by_cases h2 : i < 16
    · simp [h1, show i - 8 < 8 by omega, show 8 + (i - 8) = i by omega]
    · simp [h1, show ¬(i - 8 < 8) by omega, show 16 + (i - 8 - 8) = i by omega, show i - 8 - 8 < 3 by omega]

theorem decodeRequest_append (p : Params) (op : BitVec 3) (a c : Byte) :
    decodeRequest p (op ++ a ++ c) = decodeFields p op a c := by simp [decodeRequest]

section
variable (p : Params) (a c : Byte)

theorem decodeFields_sess : decodeFields p 1#3 a c = if c = 0x01#8 then .sessOpen a else .sessCmd a c := rfl

theorem decodeFields_chkrdy : decodeFields p 2#3 a c = .chkrdy a c := rfl

theorem decodeFields_req : decodeFields p 3#3 a c = if instantaneous c then .reqInst a c else .reqEnrg a c := rfl

theorem decodeFields_rdval : decodeFields p 4#3 a c =
    if c = p.cmdVoltage then .rdvalV a else if c = p.cmdCurrent then .rdvalI a
    else if c = p.cmdPower then .rdvalP a else .illegalOperand a c := rfl

theorem decodeFields_rdenergy : decodeFields p 5#3 a c = .rdenergy a c := rfl

theorem decodeFields_reserved {op : BitVec 3} (h : reservedOp op = true) :
    decodeFields p op a c = .illegalOperation op a c := by
  simp only [reservedOp, Bool.or_eq_true, beq_iff_eq] at h
  rcases h with (rfl | rfl) | rfl <;> rfl
end

/-- Every code is one of the five operations or reserved (R81). -/
theorem op_cases (op : BitVec 3) :
    op = 1#3 ∨ op = 2#3 ∨ op = 3#3 ∨ op = 4#3 ∨ op = 5#3 ∨ reservedOp op = true := by
  revert op; decide

end Sys2Proof
end

