-- ==== Sys2Proof/Laws/Decoders.lean ====
section
/-! SUPPORT. The decoders as numbers (43_mixed_endian_decoder.md R180 to R184). -/

namespace Sys2Proof.Machine

theorem toNat_append_byte {n : Nat} (x : BitVec n) (b : Byte) : (x ++ b).toNat = x.toNat * 256 + b.toNat := by
  rw [BitVec.toNat_append, Nat.shiftLeft_eq, Nat.mul_comm, ← Nat.two_pow_add_eq_or_of_lt b.isLt]

theorem toNat_append3 (a b c : Byte) : (a ++ b ++ c).toNat = a.toNat * 0x10000 + b.toNat * 0x100 + c.toNat := by
  simp only [toNat_append_byte]
  omega

theorem toNat_append4 (a b c d : Byte) :
    (a ++ b ++ c ++ d).toNat = a.toNat * 0x1000000 + b.toNat * 0x10000 + c.toNat * 0x100 + d.toNat := by
  simp only [toNat_append_byte]
  omega

/-- A DEC24 result in a slot: a zero byte above the three (R153). -/
theorem toSlot_dec24 (b0 b1 b2 : Byte) : toSlot (dec24 b0 b1 b2) = 0x00#8 ++ b0 ++ b2 ++ b1 := by
  apply BitVec.eq_of_toNat_eq
  rw [toNat_append4, toSlot, BitVec.toNat_setWidth, dec24, toNat_append3]
  simp only [slotW, show (0x00#8).toNat = 0 from rfl]
  omega

theorem powerMask_and (b : Byte) : (b &&& powerMask).toNat = b.toNat % 16 := by
  rw [BitVec.toNat_and]
  exact Nat.and_two_pow_sub_one_eq_mod _ 4

end Sys2Proof.Machine
end

