-- ==== Sys2Proof/Laws/Memory.lean ====
section
/-! SUPPORT. The laws of the buffers: read after write, the canonical form, and storing and reading back a byte sequence
(20_memory.md R51 to R53). -/

namespace Sys2Proof.Machine

@[simp] theorem Memory.read_cleared (i : Nat) : Memory.read Memory.cleared i = 0x00#8 := rfl

theorem Memory.wfFrom_mono {a b : Nat} (h : a ≤ b) : ∀ {m : Memory}, m.wfFrom b = true → m.wfFrom a = true
  | [], _ => rfl
  | (j, w) :: m, hm => by
    simp only [Memory.wfFrom, Bool.and_eq_true, decide_eq_true_eq] at hm ⊢
    exact ⟨⟨by omega, hm.1.2⟩, hm.2⟩

/-- Below the form's least index nothing is listed. -/
theorem Memory.read_below {m : Memory} : ∀ {start i : Nat}, m.wfFrom start = true → i < start → m.read i = 0x00#8 := by
  induction m with
  | nil => intros; rfl
  | cons c m ih =>
    intro start i hm hi
    simp only [Memory.wfFrom, Bool.and_eq_true, decide_eq_true_eq] at hm
    rw [Memory.read, if_neg (by omega)]
    exact ih hm.2 (by omega)

/-- A read after a write to the same index gives the value written; every other index is as before. -/
theorem Memory.read_write {m : Memory} : ∀ {start : Nat}, m.wfFrom start = true → ∀ (i j : Nat) (v : Byte),
    (m.write i v).read j = if j = i then v else m.read j := by
  induction m with
  | nil =>
    intro _ _ i j v
    by_cases hv : v = 0x00#8 <;> by_cases hj : j = i <;> simp [Memory.write, Memory.read, hv, hj]
  | cons c m ih =>
    obtain ⟨k, w⟩ := c
    intro start hm i j v
    simp only [Memory.wfFrom, Bool.and_eq_true, decide_eq_true_eq] at hm
    simp only [Memory.write]
    by_cases h1 : i < k
    · by_cases hv : v = 0x00#8
      · by_cases hj : j = i
        · subst hj
          simp [h1, hv, Memory.read, Nat.ne_of_lt h1, Memory.read_below hm.2 (Nat.lt_succ_of_lt h1)]
        · simp [h1, hv, hj]
      · by_cases hj : j = i <;> simp [h1, hv, hj, Memory.read]
    · by_cases h2 : i = k
      · subst h2
        by_cases hv : v = 0x00#8
        · by_cases hj : j = i
          · simp [hv, hj, Memory.read_below hm.2 (Nat.lt_succ_self i)]
          · simp [hv, hj, Memory.read]
        · by_cases hj : j = i <;> simp [hv, hj, Memory.read]
      · rw [if_neg h1, if_neg h2, Memory.read, Memory.read, ih hm.2]
        by_cases hj : j = k
        · simp [hj, Ne.symm h2]
        · simp [hj]

/-- A write keeps the canonical form. -/
theorem Memory.wfFrom_write {m : Memory} : ∀ {start : Nat}, m.wfFrom start = true → ∀ (i : Nat) (v : Byte),
    start ≤ i → (m.write i v).wfFrom start = true := by
  induction m with
  | nil => intro start _ i v hi; by_cases hv : v = 0x00#8 <;> simp [Memory.write, Memory.wfFrom, hv, hi]
  | cons c m ih =>
    obtain ⟨k, w⟩ := c
    intro start hm i v hi
    have hm' := hm
    simp only [Memory.wfFrom, Bool.and_eq_true, decide_eq_true_eq, bne_iff_ne, ne_eq] at hm
    simp only [Memory.write]
    by_cases h1 : i < k
    · by_cases hv : v = 0x00#8
      · simpa [h1, hv] using hm'
      · have : i + 1 ≤ k := h1
        simp [h1, hv, Memory.wfFrom, hi, this, hm.1.2, hm.2]
    · by_cases h2 : i = k
      · subst h2
        by_cases hv : v = 0x00#8
        · simpa [hv] using Memory.wfFrom_mono (by omega) hm.2
        · simp [hv, Memory.wfFrom, hi, hm.2]
      · rw [if_neg h1, if_neg h2]
        simp only [Memory.wfFrom, Bool.and_eq_true, decide_eq_true_eq, bne_iff_ne, ne_eq]
        exact ⟨hm.1, ih hm.2 i v (by omega)⟩

/-- A cell after a write is the one written or was there. -/
theorem Memory.mem_write {m : Memory} {i : Nat} {v : Byte} {c : Host.Cell} (h : c ∈ m.write i v) :
    c = (i, v) ∨ c ∈ m := by
  induction m with
  | nil =>
    by_cases hv : v = 0x00#8
    · simp [Memory.write, hv] at h
    · simpa [Memory.write, hv] using h
  | cons d m ih =>
    simp only [Memory.write] at h
    split at h
    · split at h
      · exact .inr h
      · simpa using h
    · split at h
      · split at h
        · exact .inr (List.mem_cons_of_mem _ h)
        · exact (List.mem_cons.mp h).imp_right (List.mem_cons_of_mem _)
      · rcases List.mem_cons.mp h with rfl | h
        · exact .inr List.mem_cons_self
        · exact (ih h).imp_right (List.mem_cons_of_mem _)

/-- A write below a bound keeps every listed index below it. -/
theorem Memory.within_write {size : Nat} {m : Memory} (hm : m.within size = true) (i : Nat) (v : Byte) (hi : i < size) :
    (m.write i v).within size = true := by
  simp only [Memory.within, List.all_eq_true, decide_eq_true_eq] at hm ⊢
  intro c hc
  rcases Memory.mem_write hc with rfl | hc
  · exact hi
  · exact hm c hc

theorem Memory.wf_write {m : Memory} (hm : m.wf = true) (i : Nat) (v : Byte) : (m.write i v).wf = true :=
  Memory.wfFrom_write hm i v (Nat.zero_le i)

/-- Storing a sequence keeps the canonical form. -/
theorem Memory.wf_store {m : Memory} (hm : m.wf = true) (base : Nat) (s : List Byte) : (m.store base s).wf = true := by
  induction s generalizing m base with
  | nil => exact hm
  | cons b s ih => exact ih (Memory.wf_write hm base b) (base + 1)

/-- Storing a sequence that fits keeps every listed index below the bound. -/
theorem Memory.within_store {size : Nat} {m : Memory} (hm : m.within size = true) (base : Nat) (s : List Byte)
    (h : base + s.length ≤ size) : (m.store base s).within size = true := by
  induction s generalizing m base with
  | nil => exact hm
  | cons b s ih =>
    simp only [List.length_cons] at h
    exact ih (Memory.within_write hm base b (by omega)) (base + 1) (by omega)

/-- After storing `s` at `base` an index of the sequence reads its byte, every other index as before. -/
theorem Memory.read_store {m : Memory} (hm : m.wf = true) (base : Nat) (s : List Byte) (i : Nat) :
    (m.store base s).read i = if base ≤ i ∧ i < base + s.length then s.getD (i - base) 0x00#8 else m.read i := by
  induction s generalizing m base with
  | nil => simp [Memory.store]
  | cons b s ih =>
    rw [Memory.store, ih (Memory.wf_write hm base b), Memory.read_write hm]
    by_cases h0 : i = base
    · subst h0; simp
    · by_cases h : base + 1 ≤ i ∧ i < base + 1 + s.length
      · have h' : base ≤ i ∧ i < base + (b :: s).length := by simp only [List.length_cons]; omega
        rw [if_pos h, if_pos h', show i - base = (i - (base + 1)) + 1 by omega]
        simp
      · have h' : ¬(base ≤ i ∧ i < base + (b :: s).length) := by simp only [List.length_cons]; omega
        rw [if_neg h, if_neg h', if_neg h0]

theorem Memory.length_slice (m : Memory) (base n : Nat) : (m.slice base n).length = n := by
  induction n generalizing base with
  | zero => rfl
  | succ n ih => simp [Memory.slice, ih]

/-- Two buffers that read alike on a range have the same slice there. -/
theorem Memory.slice_congr {m m' : Memory} (base n : Nat) (h : ∀ i, base ≤ i → i < base + n → m.read i = m'.read i) :
    m.slice base n = m'.slice base n := by
  induction n generalizing base with
  | zero => rfl
  | succ n ih =>
    rw [Memory.slice, Memory.slice, h base (by omega) (by omega), ih (base + 1) (fun i h1 h2 => h i (by omega) (by omega))]

/-- A slice of `n` bytes is the list of what its indices read. -/
theorem Memory.slice_eq {m : Memory} {base : Nat} {s : List Byte}
    (h : ∀ k, k < s.length → m.read (base + k) = s.getD k 0x00#8) : m.slice base s.length = s := by
  induction s generalizing base with
  | nil => rfl
  | cons b s ih =>
    rw [List.length_cons, Memory.slice, show m.read base = b by simpa using h 0 (by simp)]
    congr 1
    exact ih fun k hk => by simpa [Nat.add_assoc, Nat.add_comm 1 k] using h (k + 1) (by simpa using hk)

/-- What was stored is read back. -/
theorem Memory.slice_store {m : Memory} (hm : m.wf = true) (base : Nat) (s : List Byte) :
    (m.store base s).slice base s.length = s :=
  Memory.slice_eq fun k hk => by
    rw [Memory.read_store hm, if_pos (by omega), Nat.add_sub_cancel_left]

/-- A slice that covers a first part of what was stored. -/
theorem Memory.slice_store_take {m : Memory} (hm : m.wf = true) (s : List Byte) (n : Nat) (hn : n ≤ s.length) :
    (m.store 0 s).slice 0 n = s.take n := by
  have h : (s.take n).length = n := by simp [hn]
  conv_lhs => rw [← h]
  refine Memory.slice_eq fun k hk => ?_
  rw [h] at hk
  rw [Memory.read_store hm, if_pos (by omega)]
  simp [hk]

theorem Memory.wf_cleared : Memory.wf Memory.cleared = true := rfl

/-- A cleared buffer with `s` stored reads `s` and zeros behind it. -/
theorem Memory.read_fresh (s : List Byte) (i : Nat) : (Memory.cleared.store 0 s).read i = s.getD i 0x00#8 := by
  rw [Memory.read_store Memory.wf_cleared]
  by_cases h : i < s.length
  · simp [h]
  · simp [h]

end Sys2Proof.Machine
end

