-- ==== Sys2Proof/Laws/State.lean ====
section
/-! SUPPORT. What each shared update of the state does to each field: true by definition, for `simp`. -/

namespace Sys2Proof.Machine

section
variable (s : State) (op : BitVec 3) (a c : Byte)

@[simp] theorem State.accept_op : (s.accept op a c).op = op := rfl
@[simp] theorem State.accept_addr : (s.accept op a c).addr = a := rfl
@[simp] theorem State.accept_cmd : (s.accept op a c).cmd = c := rfl
@[simp] theorem State.accept_busy : (s.accept op a c).busy = true := rfl
@[simp] theorem State.accept_status : (s.accept op a c).status = s.status := rfl
@[simp] theorem State.accept_ready : (s.accept op a c).ready = s.ready := rfl
@[simp] theorem State.accept_triple : (s.accept op a c).triple = s.triple := rfl
@[simp] theorem State.accept_energy : (s.accept op a c).energy = s.energy := rfl
@[simp] theorem State.accept_crcOut : (s.accept op a c).crcOut = s.crcOut := rfl
@[simp] theorem State.accept_acc : (s.accept op a c).acc = s.acc := rfl
@[simp] theorem State.accept_txBuf : (s.accept op a c).txBuf = s.txBuf := rfl
@[simp] theorem State.accept_rxBuf : (s.accept op a c).rxBuf = s.rxBuf := rfl
@[simp] theorem State.accept_wait : (s.accept op a c).wait = s.wait := rfl
@[simp] theorem State.accept_decOut : (s.accept op a c).decOut = s.decOut := rfl
@[simp] theorem State.accept_params : (s.accept op a c).params = s.params := rfl
@[simp] theorem State.accept_inputs : (s.accept op a c).inputs = s.inputs := rfl
@[simp] theorem State.accept_rx : (s.accept op a c).rx = s.rx := rfl
@[simp] theorem State.accept_txAnswers : (s.accept op a c).txAnswers = s.txAnswers := rfl
@[simp] theorem State.accept_txCalls : (s.accept op a c).txCalls = s.txCalls := rfl
@[simp] theorem State.accept_history : (s.accept op a c).history = s.history := rfl
end

section
variable (s : State) (code : BitVec 3)

@[simp] theorem State.endWith_op : (s.endWith code).op = s.op := rfl
@[simp] theorem State.endWith_addr : (s.endWith code).addr = s.addr := rfl
@[simp] theorem State.endWith_cmd : (s.endWith code).cmd = s.cmd := rfl
@[simp] theorem State.endWith_busy : (s.endWith code).busy = false := rfl
@[simp] theorem State.endWith_status : (s.endWith code).status = code := rfl
@[simp] theorem State.endWith_ready : (s.endWith code).ready = s.ready := rfl
@[simp] theorem State.endWith_triple : (s.endWith code).triple = s.triple := rfl
@[simp] theorem State.endWith_energy : (s.endWith code).energy = s.energy := rfl
@[simp] theorem State.endWith_crcOut : (s.endWith code).crcOut = s.crcOut := rfl
@[simp] theorem State.endWith_acc : (s.endWith code).acc = s.acc := rfl
@[simp] theorem State.endWith_txBuf : (s.endWith code).txBuf = s.txBuf := rfl
@[simp] theorem State.endWith_rxBuf : (s.endWith code).rxBuf = s.rxBuf := rfl
@[simp] theorem State.endWith_wait : (s.endWith code).wait = Wait.none := rfl
@[simp] theorem State.endWith_decOut : (s.endWith code).decOut = s.decOut := rfl
@[simp] theorem State.endWith_params : (s.endWith code).params = s.params := rfl
@[simp] theorem State.endWith_inputs : (s.endWith code).inputs = s.inputs := rfl
@[simp] theorem State.endWith_rx : (s.endWith code).rx = s.rx := rfl
@[simp] theorem State.endWith_txAnswers : (s.endWith code).txAnswers = s.txAnswers := rfl
@[simp] theorem State.endWith_txCalls : (s.endWith code).txCalls = s.txCalls := rfl
@[simp] theorem State.endWith_history : (s.endWith code).history = s.history := rfl
end

section
variable (s : State) (bytes : List Byte)

@[simp] theorem State.txWrite_op : (s.txWrite bytes).op = s.op := rfl
@[simp] theorem State.txWrite_addr : (s.txWrite bytes).addr = s.addr := rfl
@[simp] theorem State.txWrite_cmd : (s.txWrite bytes).cmd = s.cmd := rfl
@[simp] theorem State.txWrite_busy : (s.txWrite bytes).busy = s.busy := rfl
@[simp] theorem State.txWrite_status : (s.txWrite bytes).status = s.status := rfl
@[simp] theorem State.txWrite_ready : (s.txWrite bytes).ready = s.ready := rfl
@[simp] theorem State.txWrite_triple : (s.txWrite bytes).triple = s.triple := rfl
@[simp] theorem State.txWrite_energy : (s.txWrite bytes).energy = s.energy := rfl
@[simp] theorem State.txWrite_crcOut : (s.txWrite bytes).crcOut = s.crcOut := rfl
@[simp] theorem State.txWrite_acc : (s.txWrite bytes).acc = s.acc := rfl
@[simp] theorem State.txWrite_txBuf : (s.txWrite bytes).txBuf = s.txBuf := rfl
@[simp] theorem State.txWrite_rxBuf : (s.txWrite bytes).rxBuf = s.rxBuf := rfl
@[simp] theorem State.txWrite_wait : (s.txWrite bytes).wait = s.wait := rfl
@[simp] theorem State.txWrite_decOut : (s.txWrite bytes).decOut = s.decOut := rfl
@[simp] theorem State.txWrite_params : (s.txWrite bytes).params = s.params := rfl
@[simp] theorem State.txWrite_inputs : (s.txWrite bytes).inputs = s.inputs := rfl
@[simp] theorem State.txWrite_rx : (s.txWrite bytes).rx = s.rx := rfl
@[simp] theorem State.txWrite_txAnswers : (s.txWrite bytes).txAnswers = s.txAnswers.tail := rfl
@[simp] theorem State.txWrite_txCalls : (s.txWrite bytes).txCalls = s.txCalls + 1 := rfl
@[simp] theorem State.txWrite_history : (s.txWrite bytes).history = s.history ++ [.tx bytes s.nextTxAnswer] := rfl
end

section
variable (s : State) (n : Nat)

@[simp] theorem State.callRx_op : (s.callRx n).op = s.op := rfl
@[simp] theorem State.callRx_addr : (s.callRx n).addr = s.addr := rfl
@[simp] theorem State.callRx_cmd : (s.callRx n).cmd = s.cmd := rfl
@[simp] theorem State.callRx_busy : (s.callRx n).busy = s.busy := rfl
@[simp] theorem State.callRx_status : (s.callRx n).status = s.status := rfl
@[simp] theorem State.callRx_ready : (s.callRx n).ready = s.ready := rfl
@[simp] theorem State.callRx_triple : (s.callRx n).triple = s.triple := rfl
@[simp] theorem State.callRx_energy : (s.callRx n).energy = s.energy := rfl
@[simp] theorem State.callRx_crcOut : (s.callRx n).crcOut = s.crcOut := rfl
@[simp] theorem State.callRx_acc : (s.callRx n).acc = s.acc := rfl
@[simp] theorem State.callRx_txBuf : (s.callRx n).txBuf = s.txBuf := rfl
@[simp] theorem State.callRx_rxBuf : (s.callRx n).rxBuf = s.rxBuf := rfl
@[simp] theorem State.callRx_wait : (s.callRx n).wait = s.wait := rfl
@[simp] theorem State.callRx_decOut : (s.callRx n).decOut = s.decOut := rfl
@[simp] theorem State.callRx_params : (s.callRx n).params = s.params := rfl
@[simp] theorem State.callRx_inputs : (s.callRx n).inputs = s.inputs := rfl
@[simp] theorem State.callRx_rx : (s.callRx n).rx = s.rx := rfl
@[simp] theorem State.callRx_txAnswers : (s.callRx n).txAnswers = s.txAnswers := rfl
@[simp] theorem State.callRx_txCalls : (s.callRx n).txCalls = s.txCalls := rfl
@[simp] theorem State.callRx_history : (s.callRx n).history = s.history ++ [.rx n] := rfl
end

section
variable (s : State) (h : List Byte)

@[simp] theorem State.buildFrame_op : (s.buildFrame h).op = s.op := rfl
@[simp] theorem State.buildFrame_addr : (s.buildFrame h).addr = s.addr := rfl
@[simp] theorem State.buildFrame_cmd : (s.buildFrame h).cmd = s.cmd := rfl
@[simp] theorem State.buildFrame_busy : (s.buildFrame h).busy = s.busy := rfl
@[simp] theorem State.buildFrame_status : (s.buildFrame h).status = s.status := rfl
@[simp] theorem State.buildFrame_ready : (s.buildFrame h).ready = s.ready := rfl
@[simp] theorem State.buildFrame_triple : (s.buildFrame h).triple = s.triple := rfl
@[simp] theorem State.buildFrame_energy : (s.buildFrame h).energy = s.energy := rfl
@[simp] theorem State.buildFrame_crcOut : (s.buildFrame h).crcOut = s.crcOut := rfl
@[simp] theorem State.buildFrame_rxBuf : (s.buildFrame h).rxBuf = s.rxBuf := rfl
@[simp] theorem State.buildFrame_wait : (s.buildFrame h).wait = s.wait := rfl
@[simp] theorem State.buildFrame_decOut : (s.buildFrame h).decOut = s.decOut := rfl
@[simp] theorem State.buildFrame_params : (s.buildFrame h).params = s.params := rfl
@[simp] theorem State.buildFrame_inputs : (s.buildFrame h).inputs = s.inputs := rfl
@[simp] theorem State.buildFrame_rx : (s.buildFrame h).rx = s.rx := rfl
@[simp] theorem State.buildFrame_txAnswers : (s.buildFrame h).txAnswers = s.txAnswers := rfl
@[simp] theorem State.buildFrame_txCalls : (s.buildFrame h).txCalls = s.txCalls := rfl
@[simp] theorem State.buildFrame_history : (s.buildFrame h).history = s.history := rfl
end

section
variable (s : State) (n : Nat) (bytes : List Byte)

@[simp] theorem State.receive_op : (s.receive n bytes).op = s.op := rfl
@[simp] theorem State.receive_addr : (s.receive n bytes).addr = s.addr := rfl
@[simp] theorem State.receive_cmd : (s.receive n bytes).cmd = s.cmd := rfl
@[simp] theorem State.receive_busy : (s.receive n bytes).busy = s.busy := rfl
@[simp] theorem State.receive_status : (s.receive n bytes).status = s.status := rfl
@[simp] theorem State.receive_ready : (s.receive n bytes).ready = s.ready := rfl
@[simp] theorem State.receive_triple : (s.receive n bytes).triple = s.triple := rfl
@[simp] theorem State.receive_energy : (s.receive n bytes).energy = s.energy := rfl
@[simp] theorem State.receive_crcOut : (s.receive n bytes).crcOut = s.crcOut := rfl
@[simp] theorem State.receive_acc : (s.receive n bytes).acc = crc16 ((s.rxBuf.store 0 bytes).slice 0 (n - 2)) := rfl
@[simp] theorem State.receive_txBuf : (s.receive n bytes).txBuf = s.txBuf := rfl
@[simp] theorem State.receive_rxBuf : (s.receive n bytes).rxBuf = s.rxBuf.store 0 bytes := rfl
@[simp] theorem State.receive_wait : (s.receive n bytes).wait = s.wait := rfl
@[simp] theorem State.receive_decOut : (s.receive n bytes).decOut = s.decOut := rfl
@[simp] theorem State.receive_params : (s.receive n bytes).params = s.params := rfl
@[simp] theorem State.receive_inputs : (s.receive n bytes).inputs = s.inputs := rfl
@[simp] theorem State.receive_rx : (s.receive n bytes).rx = s.rx := rfl
@[simp] theorem State.receive_txAnswers : (s.receive n bytes).txAnswers = s.txAnswers := rfl
@[simp] theorem State.receive_txCalls : (s.receive n bytes).txCalls = s.txCalls := rfl
@[simp] theorem State.receive_history : (s.receive n bytes).history = s.history := rfl
end

@[simp] theorem State.resetBlock_params (s : State) : s.resetBlock.params = s.params := rfl
@[simp] theorem State.resetBlock_inputs (s : State) : s.resetBlock.inputs = s.inputs := rfl
@[simp] theorem State.resetBlock_rx (s : State) : s.resetBlock.rx = s.rx := rfl
@[simp] theorem State.resetBlock_txAnswers (s : State) : s.resetBlock.txAnswers = s.txAnswers := rfl
@[simp] theorem State.resetBlock_txCalls (s : State) : s.resetBlock.txCalls = s.txCalls := rfl
@[simp] theorem State.resetBlock_history (s : State) : s.resetBlock.history = s.history := rfl

end Sys2Proof.Machine
end

