-- ==== Sys2Proof/Laws/Ops.lean ====
section
/-! SUPPORT. One specification lemma per shared operation: what it does, said once. -/

namespace Sys2Proof.Machine

/-! ## `RxRead` on the stream (20_memory.md R55) -/

theorem rxTake_bytes (bytes : List Byte) (rest : List RxItem) :
    rxTake bytes.length (bytes.map .byte ++ rest) = .got bytes rest := by
  induction bytes with
  | nil => rfl
  | cons b s ih => simp [rxTake, ih, RxOutcome.cons]

theorem rxTake_failed (lost : List Byte) (rest : List RxItem) :
    ∀ n, lost.length < n → rxTake n (lost.map .byte ++ .fail :: rest) = .failed rest := by
  induction lost with
  | nil => intro n hn; obtain ⟨n, rfl⟩ := Nat.exists_eq_add_of_lt hn; simp [rxTake]
  | cons b s ih =>
    intro n hn
    obtain ⟨n, rfl⟩ : ∃ k, n = k + 1 := ⟨n - 1, by simp at hn; omega⟩
    simp [rxTake, ih n (by simpa using hn), RxOutcome.cons]

theorem rxTake_silent (pending : List Byte) :
    ∀ n, pending.length < n → rxTake n (pending.map .byte) = .silent := by
  induction pending with
  | nil => intro n hn; obtain ⟨n, rfl⟩ := Nat.exists_eq_add_of_lt hn; simp [rxTake]
  | cons b s ih =>
    intro n hn
    obtain ⟨n, rfl⟩ : ∃ k, n = k + 1 := ⟨n - 1, by simp at hn; omega⟩
    simp [rxTake, ih n (by simpa using hn), RxOutcome.cons]

/-- A read that gives bytes took them from the head of the stream. -/
theorem rxTake_got : ∀ {n : Nat} {r : List RxItem} {bytes : List Byte} {rest : List RxItem},
    rxTake n r = .got bytes rest → bytes.length = n ∧ r = bytes.map .byte ++ rest
  | 0, r, bytes, rest, h => by
    simp only [rxTake, RxOutcome.got.injEq] at h
    obtain ⟨rfl, rfl⟩ := h
    simp
  | n + 1, [], _, _, h => by simp [rxTake] at h
  | n + 1, .fail :: r, _, _, h => by simp [rxTake] at h
  | n + 1, .byte b :: r, bytes, rest, h => by
    simp only [rxTake] at h
    cases h' : rxTake n r with
    | got s rest' =>
      simp only [h', RxOutcome.cons, RxOutcome.got.injEq] at h
      obtain ⟨rfl, rfl⟩ := h
      obtain ⟨hl, hr⟩ := rxTake_got h'
      simp [hl, ← hr]
    | failed rest' => simp [h', RxOutcome.cons] at h
    | silent => simp [h', RxOutcome.cons] at h

/-- A read that is answered is answered alike when more has arrived behind. -/
theorem rxTake_append (more : List RxItem) : ∀ (n : Nat) (r : List RxItem),
    rxTake n r ≠ .silent →
    rxTake n (r ++ more) =
      match rxTake n r with
      | .got s rest => .got s (rest ++ more)
      | .failed rest => .failed (rest ++ more)
      | .silent => .silent
  | 0, r, _ => rfl
  | n + 1, [], h => absurd rfl h
  | n + 1, .fail :: r, _ => rfl
  | n + 1, .byte b :: r, h => by
    simp only [rxTake, List.cons_append] at h ⊢
    have h' : rxTake n r ≠ .silent := by
      intro h0; rw [h0] at h; exact h rfl
    rw [rxTake_append more n r h']
    cases h0 : rxTake n r <;> simp [RxOutcome.cons]

/-! ## Requests -/

theorem State.serve_idle {s : State} (h : s.busy = false) (op : BitVec 3) (a c : Byte) (t : Task) :
    s.serve op a c t = (s.accept op a c).perform t := by simp [State.serve, h]

theorem State.serve_busy {s : State} (h : s.busy = true) (op : BitVec 3) (a c : Byte) (t : Task) :
    s.serve op a c t = s := by simp [State.serve, h]

/-! ## Building -/

/-- Storing a sequence and then one more byte. -/
theorem Memory.store_append (m : Memory) (base : Nat) (s t : List Byte) :
    m.store base (s ++ t) = (m.store base s).store (base + s.length) t := by
  induction s generalizing m base with
  | nil => rfl
  | cons b s ih => simp [Memory.store, ih, Nat.add_assoc, Nat.add_comm 1]

/-- Building leaves the frame in a cleared TXBUF and the checksum of the header in ACC (R134). -/
theorem State.buildFrame_eq (h : List Byte) (s : State) :
    s.buildFrame h = { s with txBuf := Memory.cleared.store 0 (frame h), acc := crc16 h } := by
  simp [State.buildFrame, frame, trailer, Memory.store_append, Memory.store, Memory.slice_store Memory.wf_cleared]

@[simp] theorem length_frame (h : List Byte) : (frame h).length = h.length + 2 := rfl.trans (by simp [frame, trailer])

/-- What a built frame's bytes are when they are read back from TXBUF. -/
theorem slice_frame (h : List Byte) (n : Nat) (hn : n = h.length + 2) :
    (Memory.cleared.store 0 (frame h)).slice 0 n = frame h := by
  rw [hn, ← length_frame h]
  exact Memory.slice_store Memory.wf_cleared 0 _

/-- The hand-over of a frame: one `TxWrite` and the end its answer gives (R134, R207). -/
theorem State.transmit_eq (n : Nat) (s : State) :
    s.transmit n =
      (s.txWrite (s.txBuf.slice 0 n)).endWith (if s.nextTxAnswer = .ok then stOk else stTransportFailure) := by
  unfold State.transmit
  cases s.nextTxAnswer <;> rfl

/-- The whole of a builder operation after its acceptance. -/
theorem State.build_transmit (h : List Byte) (n : Nat) (hn : n = h.length + 2) (s : State) :
    (s.buildFrame h).transmit n =
      { s with
        txBuf := Memory.cleared.store 0 (frame h), acc := crc16 h, busy := false, wait := .none
        status := if s.nextTxAnswer = .ok then stOk else stTransportFailure
        txAnswers := s.txAnswers.tail, txCalls := s.txCalls + 1
        history := s.history ++ [.tx (frame h) s.nextTxAnswer] } := by
  rw [State.transmit_eq, State.buildFrame_eq]
  simp only [slice_frame h n hn]
  rfl

theorem Form.length_header (f : Form) (a c : Byte) : f.len = (f.header a c).length + 2 := by cases f <;> rfl

/-- A builder's task: its frame in TXBUF, one `TxWrite`, the end its answer gives (R134). -/
theorem State.perform_build (f : Form) (s : State) :
    s.perform (.build f) =
      { s with
        txBuf := Memory.cleared.store 0 (frame (f.header s.addr s.cmd)), acc := crc16 (f.header s.addr s.cmd)
        busy := false, wait := .none, status := if s.nextTxAnswer = .ok then stOk else stTransportFailure
        txAnswers := s.txAnswers.tail, txCalls := s.txCalls + 1
        history := s.history ++ [.tx (frame (f.header s.addr s.cmd)) s.nextTxAnswer] } :=
  State.build_transmit _ _ (f.length_header s.addr s.cmd) s

/-- Every request word asks for a task (R82). -/
theorem requestTask_decodeRequest (p : Params) (w : RequestWord) :
    ∃ t, requestTask (decodeRequest p w) = some t := by
  unfold decodeRequest decodeFields
  (repeat' split) <;> exact ⟨_, rfl⟩

theorem State.enter_idle {s : State} (h : s.busy = false) {w : RequestWord} {t : Task}
    (ht : requestTask (decodeRequest s.params w) = some t) :
    s.enter w =
      { s.accept (requestOp w) (requestAddress w) (requestCommand w) with wait := .accepted t } := by
  simp [State.enter, h, ht]

theorem State.enter_busy {s : State} (h : s.busy = true) (w : RequestWord) : s.enter w = s := by
  simp [State.enter, h]

/-! ## Errors -/

/-- What the drain read can do: the engine stays in it, or the error's recovery ends the operation on what is left
of the stream (R160). -/
theorem State.continueDrain_cases (e : Cause) (p : Parser) (s : State) :
    (rxTake p.drainLen s.rx = .silent ∧ s.continueDrain e p = { s with wait := .drain p e }) ∨
    (∃ rest, ((∃ ds, rxTake p.drainLen s.rx = .got ds rest) ∨ rxTake p.drainLen s.rx = .failed rest) ∧
      s.continueDrain e p = { s with rx := rest }.recover e (.parser p)) := by
  unfold State.continueDrain
  cases h : rxTake p.drainLen s.rx with
  | silent => exact .inl ⟨rfl, rfl⟩
  | failed rest => exact .inr ⟨rest, .inr rfl, rfl⟩
  | got ds rest => exact .inr ⟨rest, .inl ⟨ds, rfl⟩, rfl⟩

theorem State.raise_drains {e : Cause} (he : e.drains = true) (p : Parser) (s : State) :
    s.raise e (.parser p) = (s.callRx p.drainLen).continueDrain e p := by simp [State.raise, he]

/-! ## Parsing -/

/-- The received bytes in a cleared RXBUF. -/
theorem State.receive_eq {s : State} (h : s.rxBuf = Memory.cleared) (n : Nat) (bytes : List Byte)
    (hn : bytes.length = n) :
    s.receive n bytes =
      { s with rxBuf := Memory.cleared.store 0 bytes, acc := crc16 (bytes.take (n - 2)) } := by
  simp only [State.receive, h, Memory.slice_store_take Memory.wf_cleared bytes (n - 2) (by omega)]

/-- The trailer check on received bytes: they are their own covered part framed (R116). -/
theorem trailerMatches_iff (bytes : List Byte) (n : Nat) (hn : bytes.length = n) (h2 : 2 ≤ n) :
    trailerMatches (Memory.cleared.store 0 bytes) n (crc16 (bytes.take (n - 2))) = true ↔
      bytes = frame (bytes.take (n - 2)) := by
  obtain ⟨h, x, y, rfl⟩ : ∃ h x y, bytes = h ++ [x, y] := by
    refine ⟨bytes.take (n - 2), bytes[n - 2], bytes[n - 1], ?_⟩
    conv_lhs => rw [← List.take_append_drop (n - 2) bytes]
    congr 1
    rw [List.drop_eq_getElem_cons (by omega), List.drop_eq_getElem_cons (by omega), List.drop_of_length_le (by omega)]
    simp [show n - 2 + 1 = n - 1 by omega]
  have hl : h.length = n - 2 := by simp at hn; omega
  have ht : (h ++ [x, y]).take (n - 2) = h := by rw [← hl]; simp
  rw [ht]
  simp only [trailerMatches, Memory.read_fresh, Bool.and_eq_true, beq_iff_eq, frame, trailer,
    List.append_cancel_left_eq, List.cons.injEq, and_true]
  rw [show n - 1 = h.length + 1 by omega, ← hl]
  simp

/-- The first read's three ends (R150, R207, R213). -/
theorem State.continueRead_cases (p : Parser) (s : State) :
    (rxTake p.readLen s.rx = .silent ∧ s.continueRead p = { s with wait := .read p }) ∨
    (∃ rest, rxTake p.readLen s.rx = .failed rest ∧
      s.continueRead p = { s with rx := rest }.recover .transportFailure (.parser p)) ∨
    (∃ bytes rest, rxTake p.readLen s.rx = .got bytes rest ∧
      s.continueRead p = ({ s with rx := rest }.receive p.readLen bytes).conclude p) := by
  unfold State.continueRead
  cases h : rxTake p.readLen s.rx with
  | silent => exact .inl ⟨rfl, rfl⟩
  | failed rest => exact .inr (.inl ⟨rest, rfl, rfl⟩)
  | got bytes rest => exact .inr (.inr ⟨bytes, rest, rfl, rfl⟩)

/-- The verdict's three values, in R211's order. -/
theorem State.verdict_cases (p : Parser) (s : State) :
    (trailerMatches s.rxBuf p.readLen s.acc = false ∧ s.verdict p = some .checksumMismatch) ∨
    (trailerMatches s.rxBuf p.readLen s.acc = true ∧ deviceReady p s.rxBuf = false ∧
      s.verdict p = some .deviceStatusError) ∨
    (trailerMatches s.rxBuf p.readLen s.acc = true ∧ deviceReady p s.rxBuf = true ∧ s.verdict p = none) := by
  unfold State.verdict
  cases h : trailerMatches s.rxBuf p.readLen s.acc
  · exact .inl ⟨rfl, rfl⟩
  · cases h' : deviceReady p s.rxBuf
    · exact .inr (.inl ⟨rfl, rfl, rfl⟩)
    · exact .inr (.inr ⟨rfl, rfl, rfl⟩)

/-- Whatever a verdict raises has a drain (R160). -/
theorem State.verdict_drains {p : Parser} {s : State} {e : Cause} (h : s.verdict p = some e) : e.drains = true := by
  rcases State.verdict_cases p s with ⟨-, h'⟩ | ⟨-, -, h'⟩ | ⟨-, -, h'⟩ <;> rw [h] at h'
  · cases h'; rfl
  · cases h'; rfl
  · cases h'

/-- The checks' two ends: the drain of the verdict's error, or the value. -/
theorem State.conclude_eq (p : Parser) (s : State) :
    (∃ e, s.verdict p = some e ∧ s.conclude p = (s.callRx p.drainLen).continueDrain e p) ∨
    (s.verdict p = none ∧ s.conclude p = s.succeed p) := by
  unfold State.conclude
  cases h : s.verdict p with
  | none => exact .inr ⟨rfl, rfl⟩
  | some e => exact .inl ⟨e, rfl, State.raise_drains (State.verdict_drains h) p s⟩

/-- The judgement of a response by itself: rejected with the drain to come, or the value. -/
theorem State.judge_eq (p : Parser) (s : State) :
    (∃ e, s.verdict p = some e ∧ s.judge p = { s with wait := .rejected p e }) ∨
    (s.verdict p = none ∧ s.judge p = s.succeed p) := by
  unfold State.judge
  cases h : s.verdict p with
  | none => exact .inr ⟨rfl, rfl⟩
  | some e => exact .inl ⟨e, rfl, rfl⟩

/-- The move at the first read: none while there is no answer, the end of a transport failure, or the judgement. -/
theorem State.readMove_cases (p : Parser) (s : State) :
    (rxTake p.readLen s.rx = .silent ∧ s.readMove p = s) ∨
    (∃ rest, rxTake p.readLen s.rx = .failed rest ∧
      s.readMove p = { s with rx := rest }.recover .transportFailure (.parser p)) ∨
    (∃ bytes rest, rxTake p.readLen s.rx = .got bytes rest ∧
      s.readMove p = ({ s with rx := rest }.receive p.readLen bytes).judge p) := by
  unfold State.readMove
  cases h : rxTake p.readLen s.rx with
  | silent => exact .inl ⟨rfl, rfl⟩
  | failed rest => exact .inr (.inl ⟨rest, rfl, rfl⟩)
  | got bytes rest => exact .inr (.inr ⟨bytes, rest, rfl, rfl⟩)

/-- The checks' three ends, in R211's order. -/
theorem State.conclude_cases (p : Parser) (s : State) :
    (trailerMatches s.rxBuf p.readLen s.acc = false ∧
      s.conclude p = (s.callRx p.drainLen).continueDrain .checksumMismatch p) ∨
    (trailerMatches s.rxBuf p.readLen s.acc = true ∧ deviceReady p s.rxBuf = false ∧
      s.conclude p = (s.callRx p.drainLen).continueDrain .deviceStatusError p) ∨
    (trailerMatches s.rxBuf p.readLen s.acc = true ∧ deviceReady p s.rxBuf = true ∧
      s.conclude p = (s.successValue p).endWith stOk) := by
  unfold State.conclude
  rcases State.verdict_cases p s with ⟨h, h'⟩ | ⟨h, g, h'⟩ | ⟨h, g, h'⟩ <;> rw [h']
  · exact .inl ⟨h, State.raise_drains rfl p s⟩
  · exact .inr (.inl ⟨h, g, State.raise_drains rfl p s⟩)
  · exact .inr (.inr ⟨h, g, rfl⟩)

end Sys2Proof.Machine
end

