-- ==== Sys2Proof/Laws/Parser.lean ====
section
/-! SUPPORT. What a parser operation does on a given stream, said once for the five of them (42_frame_parser.md R150). -/

namespace Sys2Proof.Machine

/-- A parser request to an idle engine is its parser operation on the accepted state. -/
theorem exec_parser {i : Instr} {p : Parser} {op : BitVec 3} {a c : Byte} {s : State} (hb : s.busy = false)
    (hi : parserRequest s.params i = some (p, op, a, c)) :
    exec i s = .next ((s.accept op a c).runParser p) := by
  cases i <;> simp only [parserRequest, Option.some.injEq, Prod.mk.injEq, reduceCtorEq] at hi <;>
    obtain ⟨rfl, rfl, rfl, rfl⟩ := hi <;> exact congrArg Host.Outcome.next (State.serve_idle hb _ _ _ _)

section
variable (p : Parser) (s : State)

@[simp] theorem State.startParser_rx : (s.startParser p).rx = s.rx := by
  cases p <;> rfl

@[simp] theorem State.startParser_rxBuf : (s.startParser p).rxBuf = Memory.cleared := by
  cases p <;> rfl

@[simp] theorem State.startParser_busy : (s.startParser p).busy = s.busy := by
  cases p <;> rfl

@[simp] theorem State.startParser_status : (s.startParser p).status = s.status := by
  cases p <;> rfl

@[simp] theorem State.startParser_history : (s.startParser p).history = s.history ++ [.rx p.readLen] := by
  cases p <;> rfl

/-- The start writes the failure value, and writing it again changes nothing. -/
theorem State.startParser_failureValue (t : State) (h : t.ready = (s.startParser p).ready)
    (h' : t.triple = (s.startParser p).triple) (h'' : t.energy = (s.startParser p).energy) :
    t.failureValue (.parser p) = t := by
  cases t
  cases p <;> simp_all [State.failureValue, State.startParser, State.callRx]
end

/-- A read that the stream answers with bytes. -/
theorem State.runParser_got {p : Parser} {s : State} {bytes : List Byte} {rest : List RxItem}
    (hl : bytes.length = p.readLen) (hr : s.rx = onStream bytes ++ rest) :
    s.runParser p =
      { s.startParser p with
        rx := rest, rxBuf := Memory.cleared.store 0 bytes
        acc := crc16 (bytes.take (p.readLen - 2)) }.conclude p := by
  have h : rxTake p.readLen (s.startParser p).rx = .got bytes rest := by
    rw [State.startParser_rx, hr, ← hl]
    exact rxTake_bytes bytes rest
  have h' : { s.startParser p with rx := rest }.rxBuf = Memory.cleared := State.startParser_rxBuf p s
  rw [State.runParser, State.continueRead, h]
  simp only []
  rw [State.receive_eq h' _ _ hl]

theorem State.runParser_failed {p : Parser} {s : State} {lost : List Byte} {rest : List RxItem}
    (hl : lost.length < p.readLen) (hr : s.rx = onStream lost ++ .fail :: rest) :
    s.runParser p = { s.startParser p with rx := rest }.recover .transportFailure (.parser p) := by
  have h : rxTake p.readLen (s.startParser p).rx = .failed rest := by
    rw [State.startParser_rx, hr]
    exact rxTake_failed lost rest _ hl
  rw [State.runParser, State.continueRead, h]
  rfl

theorem State.runParser_silent {p : Parser} {s : State} {pending : List Byte}
    (hl : pending.length < p.readLen) (hr : s.rx = onStream pending) :
    s.runParser p = { s.startParser p with wait := .read p } := by
  have h : rxTake p.readLen (s.startParser p).rx = .silent := by
    rw [State.startParser_rx, hr]
    exact rxTake_silent pending _ hl
  rw [State.runParser, State.continueRead, h]

/-- Every response has at least its trailer. -/
theorem Parser.two_le_readLen (p : Parser) : 2 ≤ p.readLen := by
  rcases p with _ | ch | _
  · decide
  · cases ch <;> decide
  · decide

/-- The conclusion on a response with the right trailer, when the second check passes too. -/
theorem State.conclude_success {p : Parser} {s : State} {h : List Byte} (hl : h.length + 2 = p.readLen)
    (hm : s.rxBuf = Memory.cleared.store 0 (frame h)) (ha : s.acc = crc16 h) (hd : deviceReady p s.rxBuf = true) :
    s.conclude p = (s.successValue p).endWith stOk := by
  have ht : (frame h).take (p.readLen - 2) = h := by rw [← hl]; simp [frame]
  have hf : (frame h).length = p.readLen := by simp [hl]
  have htr := (trailerMatches_iff (frame h) p.readLen hf p.two_le_readLen).2 (by rw [ht])
  rw [ht] at htr
  rw [hm] at hd
  simp [State.conclude, State.verdict, State.succeed, hm, ha, htr, hd]

/-- The conclusion on a response with a wrong trailer. -/
theorem State.conclude_mismatch {p : Parser} {s : State} {bytes : List Byte} (hl : bytes.length = p.readLen)
    (hm : s.rxBuf = Memory.cleared.store 0 bytes) (ha : s.acc = crc16 (bytes.take (p.readLen - 2)))
    (hw : bytes ≠ frame (bytes.take (p.readLen - 2))) :
    s.conclude p = (s.callRx p.drainLen).continueDrain .checksumMismatch p := by
  have htr : trailerMatches (Memory.cleared.store 0 bytes) p.readLen (crc16 (bytes.take (p.readLen - 2))) = false := by
    rw [← Bool.not_eq_true]
    exact fun h => hw ((trailerMatches_iff bytes p.readLen hl p.two_le_readLen).1 h)
  simp [State.conclude, State.verdict, hm, ha, htr, State.raise, Cause.drains]

/-! ## What is left alone, and where the wait marker is overwritten -/

/-- An operation that goes on overwrites the marker of where it stood. -/
theorem State.recover_wait (e : Cause) (o : Operation) (w : Wait) (s : State) :
    ({ s with wait := w } : State).recover e o = s.recover e o := by
  rcases o with _ | (_ | ch | _) | _ | _ <;> rfl

theorem State.continueDrain_wait (e : Cause) (p : Parser) (w : Wait) (s : State) :
    ({ s with wait := w } : State).continueDrain e p = s.continueDrain e p := by
  simp only [State.continueDrain]
  cases rxTake p.drainLen s.rx with
  | silent => rfl
  | failed rest => exact State.recover_wait e (.parser p) w { s with rx := rest }
  | got ds rest => exact State.recover_wait e (.parser p) w { s with rx := rest }

theorem State.conclude_wait (p : Parser) (w : Wait) (s : State) :
    ({ s with wait := w } : State).conclude p = s.conclude p := by
  unfold State.conclude
  rw [show ({ s with wait := w } : State).verdict p = s.verdict p from rfl]
  cases h : s.verdict p with
  | none => rcases p with _ | ch | _ <;> rfl
  | some e =>
    simp only [State.raise_drains (State.verdict_drains h)]
    exact State.continueDrain_wait e p w (s.callRx p.drainLen)

theorem State.continueRead_wait (p : Parser) (w : Wait) (s : State) :
    ({ s with wait := w } : State).continueRead p = s.continueRead p := by
  simp only [State.continueRead]
  cases rxTake p.readLen s.rx with
  | silent => rfl
  | failed rest => exact State.recover_wait _ (.parser p) w { s with rx := rest }
  | got bytes rest => exact State.conclude_wait p w (({ s with rx := rest } : State).receive _ bytes)

/-- A parser operation that ran from `s` to `t` wrote the result register of its own kind only, none of the fields that
belong to others, and only added to the calls made. -/
structure WritesOnly (p : Parser) (s t : State) : Prop where
  params : t.params = s.params
  crcOut : t.crcOut = s.crcOut
  history : ∃ more, t.history = s.history ++ more
  ready : p ≠ .chkrdy → t.ready = s.ready
  triple : (∀ ch, p ≠ .rdval ch) → t.triple = s.triple
  energy : p ≠ .rdenergy → t.energy = s.energy

theorem State.recover_writesOnly (e : Cause) (p : Parser) (s : State) : WritesOnly p s (s.recover e (.parser p)) := by
  rcases p with _ | ch | _ <;>
    exact ⟨rfl, rfl, ⟨[], by simp [State.recover, State.failureValue]⟩, by simp [State.recover, State.failureValue],
      by simp [State.recover, State.failureValue], by simp [State.recover, State.failureValue]⟩

theorem State.continueDrain_writesOnly (e : Cause) (p : Parser) (s : State) :
    WritesOnly p s (s.continueDrain e p) := by
  rcases State.continueDrain_cases e p s with ⟨-, h⟩ | ⟨rest, -, h⟩ <;> rw [h]
  · exact ⟨rfl, rfl, ⟨[], by simp⟩, fun _ => rfl, fun _ => rfl, fun _ => rfl⟩
  · obtain ⟨a, b, c, d, f, g⟩ := State.recover_writesOnly e p { s with rx := rest }
    exact ⟨a, b, c, d, f, g⟩

theorem State.conclude_writesOnly (p : Parser) (s : State) : WritesOnly p s (s.conclude p) := by
  rcases State.conclude_cases p s with ⟨-, h⟩ | ⟨-, -, h⟩ | ⟨-, -, h⟩ <;> rw [h]
  · obtain ⟨a, b, ⟨m, c⟩, d, f, g⟩ := State.continueDrain_writesOnly .checksumMismatch p (s.callRx p.drainLen)
    exact ⟨a, b, ⟨_, by rw [c, State.callRx, List.append_assoc]⟩, d, f, g⟩
  · obtain ⟨a, b, ⟨m, c⟩, d, f, g⟩ := State.continueDrain_writesOnly .deviceStatusError p (s.callRx p.drainLen)
    exact ⟨a, b, ⟨_, by rw [c, State.callRx, List.append_assoc]⟩, d, f, g⟩
  · rcases p with _ | ch | _ <;>
      exact ⟨rfl, rfl, ⟨[], by simp [State.successValue]⟩, by simp [State.successValue], by simp [State.successValue],
        by simp [State.successValue]⟩

theorem State.continueRead_writesOnly (p : Parser) (s : State) : WritesOnly p s (s.continueRead p) := by
  rcases State.continueRead_cases p s with ⟨-, h⟩ | ⟨rest, -, h⟩ | ⟨bytes, rest, -, h⟩ <;> rw [h]
  · exact ⟨rfl, rfl, ⟨[], by simp⟩, fun _ => rfl, fun _ => rfl, fun _ => rfl⟩
  · obtain ⟨a, b, c, d, f, g⟩ := State.recover_writesOnly .transportFailure p { s with rx := rest }
    exact ⟨a, b, c, d, f, g⟩
  · obtain ⟨a, b, c, d, f, g⟩ :=
      State.conclude_writesOnly p (({ s with rx := rest } : State).receive p.readLen bytes)
    exact ⟨a, b, c, d, f, g⟩

/-- A parser operation from its acceptance on. -/
theorem State.runParser_writesOnly (p : Parser) (s : State) : WritesOnly p s (s.runParser p) := by
  obtain ⟨a, b, ⟨m, c⟩, d, f, g⟩ := State.continueRead_writesOnly p (s.startParser p)
  rw [State.startParser_history, List.append_assoc] at c
  rcases p with _ | ch | _
  · exact ⟨a, b, ⟨_, c⟩, fun h => absurd rfl h, f, g⟩
  · exact ⟨a, b, ⟨_, c⟩, d, fun h => absurd rfl (h ch), g⟩
  · exact ⟨a, b, ⟨_, c⟩, d, f, fun h => absurd rfl h⟩

end Sys2Proof.Machine
end

