-- ==== Sys2Proof/Laws/PerInstr.lean ====
section
/-! SUPPORT. Statements made of each instruction as syntax, one lemma per constructor. `EncodedSize`: a well-formed
instruction's encoding has as many bits as its row of spec/opcode_table.json. -/

namespace Sys2Proof.Laws.EncodedSize

open Sys2Proof.Machine

/-- How many bits stand on the port. -/
def bits : PortWord → Nat
  | .request _ => 19
  | .message s => 8 * s.length
  | .micro _ s => 8 * s.length
  | .txFrame s => 8 * s.length
  | .rxFrame s => 8 * s.length

/-- The row's `width`, eight times its `length_bytes`, or the length of its `encoding` string; the checksum port's row
has none, since its message has any length. -/
def tableBits : Instr → Nat
  | .sessOpen _ => 19
  | .sessCmd _ _ => 19
  | .chkrdy _ _ => 19
  | .reqInst _ _ => 19
  | .reqEnrg _ _ => 19
  | .rdvalV _ => 19
  | .rdvalI _ => 19
  | .rdvalP _ => 19
  | .illegalOperand _ _ => 19
  | .rdenergy _ _ => 19
  | .illegalOperation _ _ _ => 19
  | .crc16 m => 8 * m.length
  | .crcInit => 0
  | .crcByte _ => 8
  | .crcStep => 0
  | .dec24 _ _ _ => 24
  | .dec24p _ _ _ => 24
  | .dec32 _ _ _ _ => 32
  | .fOpen _ => 88
  | .fSess _ _ => 32
  | .fReqInst _ _ => 48
  | .fReqEnrg _ _ => 48
  | .fAck _ _ _ => 32
  | .fMeas12 _ _ _ _ _ => 96
  | .fMeas15 _ _ _ _ _ _ => 120
  | .fEnergy _ _ _ _ _ _ _ => 152

def Statement (i : Instr) : Prop := ∀ p : Params, i.wf p = true → bits (encode p i) = tableBits i

theorem sessOpen (a : Byte) : Statement (.sessOpen a) := fun _ _ => rfl
theorem sessCmd (a c : Byte) : Statement (.sessCmd a c) := fun _ _ => rfl
theorem chkrdy (a c : Byte) : Statement (.chkrdy a c) := fun _ _ => rfl
theorem reqInst (a c : Byte) : Statement (.reqInst a c) := fun _ _ => rfl
theorem reqEnrg (a c : Byte) : Statement (.reqEnrg a c) := fun _ _ => rfl
theorem rdvalV (a : Byte) : Statement (.rdvalV a) := fun _ _ => rfl
theorem rdvalI (a : Byte) : Statement (.rdvalI a) := fun _ _ => rfl
theorem rdvalP (a : Byte) : Statement (.rdvalP a) := fun _ _ => rfl
theorem illegalOperand (a c : Byte) : Statement (.illegalOperand a c) := fun _ _ => rfl
theorem rdenergy (a c : Byte) : Statement (.rdenergy a c) := fun _ _ => rfl
theorem illegalOperation (op : BitVec 3) (a c : Byte) : Statement (.illegalOperation op a c) := fun _ _ => rfl
theorem crc16 (m : List Byte) : Statement (.crc16 m) := fun _ _ => rfl
theorem crcInit : Statement .crcInit := fun _ _ => rfl
theorem crcByte (b : Byte) : Statement (.crcByte b) := fun _ _ => rfl
theorem crcStep : Statement .crcStep := fun _ _ => rfl
theorem dec24 (b0 b1 b2 : Byte) : Statement (.dec24 b0 b1 b2) := fun _ _ => rfl
theorem dec24p (b0 b1 b2 : Byte) : Statement (.dec24p b0 b1 b2) := fun _ _ => rfl
theorem dec32 (e1 e2 e3 e4 : Byte) : Statement (.dec32 e1 e2 e3 e4) := fun _ _ => rfl

/-- A built frame has its covered bytes and two more (R13). -/
theorem bits_frame (h : List Byte) : bits (.txFrame (frame h)) = 8 * (h.length + 2) := by simp [bits, frame, trailer]

theorem fOpen (a : Byte) : Statement (.fOpen a) := fun _ _ => bits_frame _
theorem fSess (a c : Byte) : Statement (.fSess a c) := fun _ _ => bits_frame _
theorem fReqInst (a c : Byte) : Statement (.fReqInst a c) := fun _ _ => bits_frame _
theorem fReqEnrg (a c : Byte) : Statement (.fReqEnrg a c) := fun _ _ => bits_frame _

theorem fAck (x st : Byte) (k : Word16) : Statement (.fAck x st k) := fun _ _ => rfl
theorem fMeas12 (x : Byte) (f0 f1 f2 : Field3) (k : Word16) : Statement (.fMeas12 x f0 f1 f2 k) := fun _ _ => rfl
theorem fMeas15 (x : Byte) (sk f0 f1 f2 : Field3) (k : Word16) : Statement (.fMeas15 x sk f0 f1 f2 k) :=
  fun _ _ => rfl

theorem fEnergy (x e1 e2 e3 e4 : Byte) (rest : List Byte) (k : Word16) :
    Statement (.fEnergy x e1 e2 e3 e4 rest k) := by
  intro p h
  have hl : rest.length = 12 := by simpa [Instr.wf] using h
  simp [encode, bits, tableBits, energyBytes, withTrailer, hl]

end Sys2Proof.Laws.EncodedSize
end

