-- ==== Sys2Proof/Tests/Slice0.lean ====
section
/-! SUPPORT. The model's own tests. Expected values come from spec/95_test_vectors.md (its numbers V... are named) or from
the spec's encodings written out bit by bit. The last section shows, for every statement with hypotheses, a state that
meets them (`test_witness_...`). -/

namespace Sys2Proof.Tests

open Sys2Proof Sys2Proof.Machine

/-! ## Well-formedness: each check and a term it refuses -/

theorem test_wf_sessCmd : (Instr.sessCmd 0x2A 0x01).wf Params.reference = false := by decide
theorem test_wf_reqInst_low : (Instr.reqInst 0x2A 0x00).wf Params.reference = false := by decide
theorem test_wf_reqInst_high : (Instr.reqInst 0x2A 0x05).wf Params.reference = false := by decide
theorem test_wf_reqEnrg_low : (Instr.reqEnrg 0x2A 0x01).wf Params.reference = false := by decide
theorem test_wf_reqEnrg_high : (Instr.reqEnrg 0x2A 0x04).wf Params.reference = false := by decide
theorem test_wf_illegalOperand : (Instr.illegalOperand 0x00 0x03).wf Params.reference = false := by decide
theorem test_wf_illegalOperation : (Instr.illegalOperation 1#3 0x00 0x00).wf Params.reference = false := by decide
theorem test_wf_fSess : (Instr.fSess 0x2A 0x01).wf Params.reference = false := by decide
theorem test_wf_fReqInst : (Instr.fReqInst 0x2A 0x05).wf Params.reference = false := by decide
theorem test_wf_fReqEnrg : (Instr.fReqEnrg 0x2A 0x04).wf Params.reference = false := by decide
theorem test_wf_fEnergy : (Instr.fEnergy 0x2A 0 0 0 0 [0x00, 0x00] 0x0000).wf Params.reference = false := by decide
theorem test_wf_params : ({ cmdVoltage := 0x01, cmdCurrent := 0x02, cmdPower := 0x01 } : Params).wf = false := by decide

/-! ## Decoding: every constructor from a word written out from its encoding -/

/-- `{op, address, command}` under the reference instantiation. -/
def request (op : BitVec 3) (a c : Byte) : Instr := decodeRequest Params.reference (op ++ a ++ c)

theorem test_decode_sessOpen : request 0b001 0b00101010 0b00000001 = .sessOpen 0x2A := by decide
theorem test_decode_sessCmd : request 0b001 0b00101010 0b00000000 = .sessCmd 0x2A 0x00 := by decide
theorem test_decode_chkrdy : request 0b010 0b11111111 0b11111111 = .chkrdy 0xFF 0xFF := by decide
theorem test_decode_reqInst : request 0b011 0b00101010 0b00000100 = .reqInst 0x2A 0x04 := by decide
theorem test_decode_reqEnrg : request 0b011 0b00101010 0b00000101 = .reqEnrg 0x2A 0x05 := by decide
theorem test_decode_rdvalV : request 0b100 0b01110111 0b00000001 = .rdvalV 0x77 := by decide
theorem test_decode_rdvalI : request 0b100 0b00000000 0b00000010 = .rdvalI 0x00 := by decide
theorem test_decode_rdvalP : request 0b100 0b00000000 0b00000011 = .rdvalP 0x00 := by decide
theorem test_decode_illegalOperand : request 0b100 0b00000000 0b00000100 = .illegalOperand 0x00 0x04 := by decide
theorem test_decode_rdenergy : request 0b101 0b01110111 0b01110111 = .rdenergy 0x77 0x77 := by decide
theorem test_decode_reserved : request 0b110 0b11111111 0b11111111 = .illegalOperation 6#3 0xFF 0xFF := by decide

/-- The expansions of R97 under the reference instantiation. -/
theorem test_decode_pseudo :
    [pseudoOpen 0x2A, pseudoRdvolt Params.reference, pseudoRdcurr Params.reference, pseudoRdpowr Params.reference] =
      [0x12A01#19, 0x40001#19, 0x40002#19, 0x40003#19] := by decide

theorem test_decode_message : (decode Params.reference (.message [0x01, 0x03])).toOption = some (.crc16 [0x01, 0x03]) := by
  decide

theorem test_decode_micro :
    [decode Params.reference (.micro .crcInit []), decode Params.reference (.micro .crcByte [0b00000001]),
     decode Params.reference (.micro .crcStep []), decode Params.reference (.micro .dec24 [0x01, 0x02, 0x03]),
     decode Params.reference (.micro .dec24p [0xC1, 0xA0, 0x86]),
     decode Params.reference (.micro .dec32 [0x10, 0x20, 0x30, 0x40])].map Except.toOption =
    [some .crcInit, some (.crcByte 0x01), some .crcStep, some (.dec24 0x01 0x02 0x03), some (.dec24p 0xC1 0xA0 0x86),
     some (.dec32 0x10 0x20 0x30 0x40)] := by decide

/-- V2.3, V2.6, V2.12 and V2.16: the four request formats. -/
theorem test_decode_request_frames :
    [decodeTxFrame [0x2A, 0x01, 0x01, 0x01, 0x01, 0x01, 0x01, 0x01, 0x01, 0x90, 0xE0], decodeTxFrame [0x2A, 0x02, 0x9F, 0x11],
     decodeTxFrame [0x2A, 0x05, 0x00, 0x02, 0x99, 0xFC],
     decodeTxFrame [0x2A, 0x08, 0x16, 0x09, 0x47, 0x98]].map Except.toOption =
    [some (.fOpen 0x2A), some (.fSess 0x2A 0x02), some (.fReqInst 0x2A 0x02), some (.fReqEnrg 0x2A 0x09)] := by
  decide +kernel

/-- V3.2, V3.8 (F-ACK, F-MEAS12): the trailer's first byte is the low one. -/
theorem test_decode_ack_meas12 :
    [decodeRxFrame [0x2A, 0x05, 0xDE, 0xD3],
     decodeRxFrame [0x2A, 0x00, 0xD8, 0x59, 0x00, 0x6E, 0x5A, 0x00, 0x7B, 0x59, 0x8D, 0x69]].map Except.toOption =
    [some (.fAck 0x2A 0x05 0xD3DE),
     some (.fMeas12 0x2A ⟨0x00, 0xD8, 0x59⟩ ⟨0x00, 0x6E, 0x5A⟩ ⟨0x00, 0x7B, 0x59⟩ 0x698D)] := by decide

/-- V3.12 (F-MEAS15) and V3.18 (F-ENERGY). -/
theorem test_decode_meas15_energy :
    [decodeRxFrame [0x2A, 0x40, 0x10, 0x27, 0x40, 0x40, 0x1F, 0xC1, 0xA0, 0x86, 0x00, 0x63, 0x00, 0xCB, 0x8C],
     decodeRxFrame [0x2A, 0x10, 0x20, 0x30, 0x40, 1, 2, 3, 4, 5, 6, 7, 8, 9, 10, 11, 12, 0x0C, 0xBF]].map
      Except.toOption =
    [some (.fMeas15 0x2A ⟨0x40, 0x10, 0x27⟩ ⟨0x40, 0x40, 0x1F⟩ ⟨0xC1, 0xA0, 0x86⟩ ⟨0x00, 0x63, 0x00⟩ 0x8CCB),
     some (.fEnergy 0x2A 0x10 0x20 0x30 0x40 [1, 2, 3, 4, 5, 6, 7, 8, 9, 10, 11, 12] 0xBF0C)] := by decide

/-- The name a decoder rejects under. -/
def rejection : Except DecodeError Instr → Option DecodeError
  | .error e => some e
  | .ok _ => none

theorem test_decode_rejects :
    [decodeTxFrame [0x2A, 0x02, 0x9F, 0x10], decodeTxFrame [0x2A, 0x02, 0x9F],
     decodeTxFrame (frame [0x2A, 0x05, 0x00, 0x09]), decodeTxFrame (frame [0x2A, 0x01]),
     decodeTxFrame (frame [0x2A, 0x01, 0x02, 0x01, 0x01, 0x01, 0x01, 0x01, 0x01]), decodeRxFrame [0x2A, 0x02, 0x9F],
     decodeMicro .dec24 [0x01, 0x02]].map rejection =
    [some .wrongTrailer, some .noFormatOfThisLength, some .wrongFixedByte, some .wrongFixedByte, some .wrongFixedByte,
     some .noFormatOfThisLength, some .wrongOperandCount] := by decide +kernel

/-- The opcode table's words by their numbers (log 15). -/
theorem test_table_words :
    [decodeTableWord 24 0x10001, decodeTableWord 24 0x2FFFF, decodeTableWord 24 0x40000, decodeTableWord 24 0x60000,
     decodeTableWord 0 0, decodeTableWord 32 0xD3DE052A] =
    [some (.sessOpen 0x00), some (.chkrdy 0xFF 0xFF), some (.illegalOperand 0x00 0x00),
     some (.illegalOperation 6#3 0x00 0x00), some (.crc16 []), some (.fAck 0x2A 0x05 0xD3DE)] := by decide

/-- After reset a step runs the word put in front of it: V3.24 ends with STATUS 5. -/
theorem test_step_of_table_word :
    (match step (State.reset.withFetchWord 24 0x70000) with
      | .next t => some (t.op, t.status, t.busy)
      | _ => none) = some (7#3, 5#3, false) := by decide

/-! ## Meanings -/

/-- The reset state with items on the RX stream and answers to the coming writes. -/
def line (rx : List RxItem) (answers : List TxAnswer) : State := { State.reset with rx := rx, txAnswers := answers }

/-- What an instruction's next state shows. -/
def shown {α : Type} (i : Instr) (s : State) (f : State → α) : Option α :=
  match exec i s with
  | .next t => some (f t)
  | _ => none

/-- V1.5 and V1.8, on the checksum port. -/
theorem test_crc16 :
    shown (.crc16 [0x01, 0x03]) State.reset (·.crcOut) = some 0x2140 ∧
    shown (.crc16 [0x31, 0x32, 0x33, 0x34, 0x35, 0x36, 0x37, 0x38, 0x39]) State.reset (·.crcOut) = some 0x4B37 := by
  decide +kernel

/-- V1.13: the shift steps; and the micro-steps on ACC. -/
theorem test_crcStep :
    [0xFFFE, 0x7FFF, 0x0001, 0x0000, 0x8000].map (fun a => shown .crcStep { State.reset with acc := a } (·.acc)) =
      [some 0x7FFF, some 0x9FFE, some 0xA001, some 0x0000, some 0x4000] := by decide
theorem test_crcInit : shown .crcInit { State.reset with acc := 0x1234 } (·.acc) = some 0xFFFF := by decide
/-- V1.3. -/
theorem test_crcByte : shown (.crcByte 0x01) State.reset (·.acc) = some 0x807E := by decide +kernel

/-- V4.3 and V4.6. -/
theorem test_dec24 :
    shown (.dec24 0x01 0x02 0x03) State.reset (·.decOut) = some 0x010302 ∧
    shown (.dec24 0x01 0x00 0x00) State.reset (·.decOut) = some 65536 := by decide
/-- V4.12 and V4.14. -/
theorem test_dec24p :
    shown (.dec24p 0xC1 0xA0 0x86) State.reset (·.decOut) = some 1000 ∧
    shown (.dec24p 0xFF 0xFF 0xFF) State.reset (·.decOut) = some 10485 := by decide
/-- V4.17 and V4.19. -/
theorem test_dec32 :
    shown (.dec32 0x01 0x02 0x03 0x04) State.reset (·.decOut) = some 0x02010403 ∧
    shown (.dec32 0x00 0x01 0x00 0x00) State.reset (·.decOut) = some 0x01000000 := by decide

/-- V2.3, and V2.20: the write fails. -/
theorem test_sessOpen :
    shown (.sessOpen 0x2A) (line [] [.ok]) (fun t => (t.history, t.status, t.busy)) =
      some ([.tx [0x2A, 0x01, 0x01, 0x01, 0x01, 0x01, 0x01, 0x01, 0x01, 0x90, 0xE0] .ok], 1#3, false) ∧
    shown (.sessOpen 0x2A) (line [] [.fail]) (fun t => (t.status, t.busy)) = some (4#3, false) := by decide +kernel
/-- V2.6 and V2.9. -/
theorem test_sessCmd :
    shown (.sessCmd 0x2A 0x02) (line [] [.ok]) (·.history) = some [.tx [0x2A, 0x02, 0x9F, 0x11] .ok] ∧
    shown (.sessCmd 0xFF 0xFF) (line [] [.ok]) (·.history) = some [.tx [0xFF, 0xFF, 0x00, 0x00] .ok] := by decide +kernel
/-- V2.12. -/
theorem test_reqInst :
    shown (.reqInst 0x2A 0x02) (line [] [.ok]) (·.history) = some [.tx [0x2A, 0x05, 0x00, 0x02, 0x99, 0xFC] .ok] := by
  decide +kernel
/-- V2.16 and V2.10. -/
theorem test_reqEnrg :
    shown (.reqEnrg 0x2A 0x09) (line [] [.ok]) (·.history) = some [.tx [0x2A, 0x08, 0x16, 0x09, 0x47, 0x98] .ok] ∧
    shown (.reqEnrg 0x2A 0x00) (line [] [.ok]) (·.history) = some [.tx [0x2A, 0x08, 0x16, 0x00, 0x87, 0x9E] .ok] := by
  decide +kernel

/-- V3.7, and V3.4: a wrong trailer and a non-zero status, the drain fails. -/
theorem test_chkrdy :
    shown (.chkrdy 0x2A 0x00) (line (onStream [0x99, 0x00, 0x6B, 0xE0]) []) (fun t => (t.ready, t.status, t.history)) =
      some (true, 1#3, [.rx 4]) ∧
    shown (.chkrdy 0x00 0x00) (line (onStream [0x2A, 0x05, 0xDE, 0x53] ++ [.fail]) [])
      (fun t => (t.ready, t.status, t.history)) = some (false, 2#3, [.rx 4, .rx 4]) := by decide +kernel
/-- V3.2 and V3.25: a non-zero status, drained; no answer at all. -/
theorem test_chkrdy_status_and_hang :
    shown (.chkrdy 0x00 0x00) (line (onStream [0x2A, 0x05, 0xDE, 0xD3, 1, 2, 3, 4, 5]) [])
      (fun t => (t.ready, t.status, t.rx)) = some (false, 3#3, [.byte 5]) ∧
    shown (.chkrdy 0x00 0x00) State.reset (fun t => (t.busy, t.ready, t.status)) = some (true, false, 0#3) := by
  decide +kernel
/-- V3.8 and V3.10. -/
theorem test_rdvalV :
    shown (.rdvalV 0x00) (line (onStream [0x2A, 0x00, 0xD8, 0x59, 0x00, 0x6E, 0x5A, 0x00, 0x7B, 0x59, 0x8D, 0x69]) [])
      (fun t => (t.triple, t.status)) = some ({ Triple.sentinel with v := ⟨0x59D8, 0x5A6E, 0x597B⟩ }, 1#3) ∧
    shown (.rdvalV 0x00)
      (line (onStream ([0x2A, 0x00, 0xD8, 0x59, 0x00, 0x6E, 0x5A, 0x00, 0x7B, 0x59, 0x8D, 0x68] ++
        [0x2A, 0x00, 0xD8, 0x59, 0x00, 0x6E, 0x5A, 0x00, 0x7B, 0x59, 0x8D, 0x69])) [])
      (fun t => (t.triple, t.status, t.rx)) = some (Triple.sentinel, 2#3, []) := by decide +kernel
/-- V3.9. -/
theorem test_rdvalI :
    shown (.rdvalI 0x00) (line (onStream [0x2A, 0x00, 0xDC, 0x05, 0x00, 0x10, 0x27, 0x01, 0x00, 0x00, 0x93, 0xF3]) [])
      (fun t => (t.triple, t.status)) = some ({ Triple.sentinel with i := ⟨1500, 10000, 65536⟩ }, 1#3) := by
  decide +kernel
/-- V3.12 and V3.26: the wrong pairing. -/
theorem test_rdvalP :
    shown (.rdvalP 0x00)
      (line (onStream [0x2A, 0x40, 0x10, 0x27, 0x40, 0x40, 0x1F, 0xC1, 0xA0, 0x86, 0x00, 0x63, 0x00, 0xCB, 0x8C]) [])
      (fun t => (t.triple, t.status)) = some ({ Triple.sentinel with p := ⟨80, 1000, 0⟩ }, 1#3) ∧
    shown (.rdvalP 0x00)
      (line (onStream [0x2A, 0x00, 0xD8, 0x59, 0x00, 0x6E, 0x5A, 0x00, 0x7B, 0x59, 0x8D, 0x69, 0x2A, 0x00, 0xD8] ++ [.fail])
        [])
      (fun t => (t.triple, t.status, t.history)) = some (Triple.sentinel, 2#3, [.rx 15, .rx 15]) := by decide +kernel
/-- V3.18 and V3.21. -/
theorem test_rdenergy :
    shown (.rdenergy 0x77 0x77)
      (line (onStream [0x01, 0x01, 0x02, 0x03, 0x04, 0xAA, 0xAA, 0xAA, 0xAA, 0xAA, 0xAA, 0xAA, 0xAA, 0xAA, 0xAA, 0xAA, 0xAA,
        0x08, 0xC8]) [])
      (fun t => (t.energy, t.status)) = some (0x02010403, 1#3) ∧
    shown (.rdenergy 0x00 0x00) (line [.fail] []) (fun t => (t.energy, t.status, t.history)) =
      some (0xFFFFFFFF, 4#3, [.rx 19]) := by decide +kernel
/-- V3.14: the start state's triple holds a value, so that the clearing shows. -/
theorem test_illegalOperand :
    shown (.illegalOperand 0x00 0x09) { State.reset with triple := { Triple.sentinel with v := ⟨1, 2, 3⟩ } }
      (fun t => (t.triple, t.status, t.history)) = some (Triple.sentinel, 6#3, []) := by decide
/-- V3.23. -/
theorem test_illegalOperation :
    shown (.illegalOperation 6#3 0xFF 0xFF) { State.reset with ready := true, energy := 5 }
      (fun t => (t.ready, t.energy, t.status)) = some (true, 5, 5#3) := by decide

/-- V2.3, V2.6, V2.12, V2.16: the frames in TXBUF. -/
theorem test_request_frames :
    shown (.fOpen 0x2A) State.reset (fun t => t.txBuf.slice 0 11) =
      some [0x2A, 0x01, 0x01, 0x01, 0x01, 0x01, 0x01, 0x01, 0x01, 0x90, 0xE0] ∧
    shown (.fSess 0x2A 0x02) State.reset (fun t => t.txBuf.slice 0 11) =
      some [0x2A, 0x02, 0x9F, 0x11, 0x00, 0x00, 0x00, 0x00, 0x00, 0x00, 0x00] ∧
    shown (.fReqInst 0x2A 0x02) State.reset (fun t => t.txBuf.slice 0 6) = some [0x2A, 0x05, 0x00, 0x02, 0x99, 0xFC] ∧
    shown (.fReqEnrg 0x2A 0x09) State.reset (fun t => t.txBuf.slice 0 6) = some [0x2A, 0x08, 0x16, 0x09, 0x47, 0x98] := by
  decide +kernel

/-- The engine blocked in the first read of a parser operation, as R213 describes it, reached from reset. -/
def blocked (i : Instr) : State :=
  match exec i State.reset with
  | .next t => t
  | _ => State.reset

/-- V3.1, V3.8, V3.12, V3.17 with the frame arriving after the request. -/
theorem test_response_frames :
    shown (.fAck 0x2A 0x00 0xD01E) (blocked (.chkrdy 0 0)) (fun t => (t.ready, t.status, t.busy)) = some (true, 1#3, false) ∧
    shown (.fMeas12 0x2A ⟨0x00, 0xD8, 0x59⟩ ⟨0x00, 0x6E, 0x5A⟩ ⟨0x00, 0x7B, 0x59⟩ 0x698D) (blocked (.rdvalV 0))
      (fun t => (t.triple.v, t.status)) = some (⟨23000, 23150, 22907⟩, 1#3) ∧
    shown (.fMeas15 0x2A ⟨0x40, 0x10, 0x27⟩ ⟨0x40, 0x40, 0x1F⟩ ⟨0xC1, 0xA0, 0x86⟩ ⟨0x00, 0x63, 0x00⟩ 0x8CCB)
      (blocked (.rdvalP 0)) (fun t => (t.triple.p, t.status)) = some (⟨80, 1000, 0⟩, 1#3) ∧
    shown (.fEnergy 0x2A 0x10 0x20 0x30 0x40 (List.replicate 12 0) 0x3CAC) (blocked (.rdenergy 0 0))
      (fun t => (t.energy, t.status)) = some (0x20104030, 1#3) := by decide +kernel

/-- A trailer in the wrong order is not accepted: F-ACK's `D0 1E` for `1E D0`. -/
theorem test_response_trailer_order :
    shown (.fAck 0x2A 0x00 0x1ED0) (blocked (.chkrdy 0 0)) (fun t => (t.ready, t.busy, t.wait)) =
      some (false, true, .drain .chkrdy .checksumMismatch) := by decide +kernel

/-- A reset while the engine is blocked: the block is as after reset, and the call already made stays made. -/
theorem test_reset_while_blocked :
    (match step { blocked (.chkrdy 0 0) with inputs := [.reset] } with
      | .next t => some (t.busy, t.wait, t.op, t.history)
      | _ => none) = some (false, .none, 0#3, [.rx 4]) := by decide

/-- R241 with V3.2's response: abandoned after the rejection and before its drain, four bytes are gone and one read was
issued; one move later the drain is issued too, and still no byte of it is taken. -/
theorem test_reset_around_the_drain :
    (steps 4 { line (onStream [0x2A, 0x05, 0xDE, 0xD3, 1, 2, 3, 4, 5]) [] with
        inputs := [.enter 0x20000#19, .advance, .advance, .reset] }).map
      (fun t => (t.busy, t.status, t.rx, t.history)) =
      some (false, 0#3, onStream [1, 2, 3, 4, 5], [.rx 4]) ∧
    (steps 5 { line (onStream [0x2A, 0x05, 0xDE, 0xD3, 1, 2, 3, 4, 5]) [] with
        inputs := [.enter 0x20000#19, .advance, .advance, .advance, .reset] }).map
      (fun t => (t.busy, t.rx, t.history)) = some (false, onStream [1, 2, 3, 4, 5], [.rx 4, .rx 4]) := by decide +kernel

/-- R241: SESS.OPEN abandoned between its acceptance and its write hands nothing to the transport. -/
theorem test_reset_before_the_write :
    (steps 2 { line [] [.ok] with inputs := [.enter 0x12A01#19, .reset] }).map
      (fun t => (t.addr, t.busy, t.txAnswers, t.history)) = some (0x00, false, [.ok], []) := by decide +kernel

/-! ## Witnesses: for every statement with hypotheses, states and operands that meet all of them together -/

/-- A busy engine: blocked in CHKRDY's read, one byte pending, and something still to come. -/
def busyWith (next : Input) : State :=
  { blocked (.chkrdy 0 0) with rx := onStream [0x2A], inputs := [next] }

/-- The engine blocked in CHKRDY's drain read after a wrong trailer, reached from reset. -/
def blockedInDrain : State :=
  match exec (.chkrdy 0 0) (line (onStream [0x2A, 0x00, 0x1F, 0xD0]) []) with
  | .next t => t
  | _ => State.reset

/-- The engine with CHKRDY's response rejected and the drain not issued, reached from reset. -/
def rejectedFirst : State :=
  match steps 3 { line (onStream [0x2A, 0x00, 0x1F, 0xD0]) [] with inputs := [.enter 0x20000#19, .advance, .advance] } with
  | some t => t
  | none => State.reset

theorem test_witness_ResetInputRestoresTheBlockOnly :
    { blocked (.rdenergy 0 0) with inputs := [.reset] }.inputs = .reset :: [] ∧ (blocked (.rdenergy 0 0)).busy = true := by
  decide

/-- A state of the invariant that is not idle, and its step. -/
theorem test_witness_EveryStepKeepsTheInvariant :
    { blocked (.chkrdy 0 0) with inputs := [.arrive (onStream [0x2A])] }.Inv ∧
    ∃ t, step { blocked (.chkrdy 0 0) with inputs := [.arrive (onStream [0x2A])] } = .next t :=
  ⟨by constructor <;> decide, _, rfl⟩

/-- A choice of the parameters that is not the reference instantiation, and both ends of REQ.INST's commands. -/
theorem test_witness_DecodeOfEncodeIsTheInstruction :
    ({ cmdVoltage := 0x00, cmdCurrent := 0xFF, cmdPower := 0x80 } : Params).wf = true ∧
    ∀ i ∈ [Instr.sessOpen 0xFF, .sessCmd 0xFF 0x02, .reqInst 0x2A 0x01, .reqInst 0x2A 0x04, .reqEnrg 0x2A 0x00,
      .reqEnrg 0x2A 0x05, .illegalOperand 0x00 0x01, .illegalOperation 7#3 0x00 0x00,
      .fEnergy 0x2A 0 0 0 0 (List.replicate 12 0xFF) 0x0000],
      i.wf { cmdVoltage := 0x00, cmdCurrent := 0xFF, cmdPower := 0x80 } = true := by decide

theorem test_witness_StepRunsTheDecodedRequest :
    { State.reset with inputs := [.request 0x20000#19] }.inputs = .request 0x20000#19 :: [] ∧
    { State.reset with inputs := [.message [0x01]] }.inputs = .message [0x01] :: [] ∧
    State.reset.inputs = [] ∧ State.reset.wait = .none := by decide

theorem test_witness_ArrivingFrameRunsItsInstruction :
    decodeRxFrame [0x2A, 0x00, 0x1E, 0xD0] = .ok (.fAck 0x2A 0x00 0xD01E) ∧
    (busyWith (.arrive (onStream [0x2A, 0x00, 0x1E, 0xD0]))).inputs = .arrive (onStream [0x2A, 0x00, 0x1E, 0xD0]) :: [] :=
  ⟨rfl, rfl⟩

/-- An arrival of another shape: part of a frame, then a point of failure. -/
theorem test_witness_ArrivingFrameRunsItsInstruction_any :
    (busyWith (.arrive (onStream [0x2A, 0x00] ++ [.fail]))).inputs = .arrive (onStream [0x2A, 0x00] ++ [.fail]) :: [] := rfl

/-- Each clause: the three waits that ask for nothing; a read and a drain left one byte short; a read given up before its
last byte; a drain answered to the byte, and given up at once, for each of the two errors. -/
theorem test_witness_ArrivalsAnswerTheBlockedRead :
    State.reset.wait = .none ∧
    (State.reset.enter 0x20000#19).wait = .accepted (.parse .chkrdy) ∧
    rejectedFirst.wait = .rejected .chkrdy .checksumMismatch ∧
    (busyWith .advance).wait = .read .chkrdy ∧ blockedInDrain.wait = .drain .chkrdy .checksumMismatch ∧
    (busyWith .advance).rx ++ onStream [1, 2] = onStream [0x2A, 1, 2] ∧
    [0x2A#8, 1#8, 2#8].length < Parser.chkrdy.readLen ∧
    (busyWith .advance).rx ++ (onStream [1, 2] ++ [.fail]) = onStream [0x2A, 1, 2] ++ .fail :: [] ∧
    blockedInDrain.rx ++ onStream [1, 2, 3] = onStream [1, 2, 3] ∧
    (blockedInDrain.rx ++ onStream [1, 2, 3, 4] = onStream [1, 2, 3, 4] ++ [] ∧
      [1#8, 2#8, 3#8, 4#8].length = Parser.chkrdy.readLen) ∧
    blockedInDrain.rx ++ [.fail] = onStream [] ++ .fail :: [] ∧
    ((blocked (.chkrdy 0 0)).deliver (onStream [0x2A, 0x05, 0xDE, 0xD3])).wait = .drain .chkrdy .deviceStatusError := by
  decide +kernel

theorem test_witness_PacedInputsLetTheEngineStand :
    ({ State.reset with inputs := [.enter 0x20000#19] }.inputs = .enter 0x20000#19 :: [] ∧ State.reset.busy = false) ∧
    ((busyWith (.enter 0x20000#19)).inputs = .enter 0x20000#19 :: [] ∧ (busyWith (.enter 0x20000#19)).busy = true) ∧
    (busyWith .advance).inputs = .advance :: [] ∧
    (busyWith (.queue [.byte 1, .fail])).inputs = .queue [.byte 1, .fail] :: [] ∧
    ((State.reset.enter 0x20000#19).inputs = [] ∧ (State.reset.enter 0x20000#19).stuck = false) := by decide

/-- A state with a verdict still to be acted on, and one without; an idle one. -/
theorem test_witness_PacedMovesMakeTheWholeOperation :
    (∀ p e, rejectedFirst.wait = .rejected p e → e.drains = true) ∧
    (∀ p e, State.reset.wait = .rejected p e → e.drains = true) ∧ State.reset.busy = false := by
  refine ⟨fun p e h => ?_, fun p e h => ?_, rfl⟩
  · have : rejectedFirst.wait = .rejected .chkrdy .checksumMismatch := by decide +kernel
    cases this.symm.trans h; rfl
  · cases h

/-- Each clause from an idle engine: CHKRDY's word, a response with a wrong trailer, and one with the right trailer and a
status that is not 0. -/
theorem test_witness_ResetAbandonsAtThePointReached :
    State.reset.busy = false ∧
    parserRequest Params.reference (decodeRequest Params.reference 0x20000#19) = some (.chkrdy, 2#3, 0x00, 0x00) ∧
    (∀ k ≤ 3,
      { State.reset with inputs := .enter 0x20000#19 :: (List.replicate k Input.advance ++ [Input.reset]) }.inputs =
        Input.enter 0x20000#19 :: (List.replicate k .advance ++ [Input.reset])) ∧
    ∀ bs ∈ [[0x2A#8, 0x00#8, 0x1F#8, 0xD0#8], frame [0x2A#8, 0x01#8], frame [0x2A#8, 0xFF#8]],
      (line (onStream bs ++ []) []).rx = onStream bs ++ [] ∧ bs.length = Parser.chkrdy.readLen ∧
      (bs ≠ frame (bs.take (Parser.chkrdy.readLen - 2)) ∨ (Parser.chkrdy = .chkrdy ∧ bs.getD 1 0x00#8 ≠ 0x00#8)) := by
  decide +kernel

/-- An idle engine, one blocked in its read, and one blocked in its drain, each with a move that lets it go on. -/
theorem test_witness_UnpacedMovesSettleTheEngine :
    ∀ s ∈ [{ State.reset with inputs := [.request 0x20000#19] }, busyWith (.arrive [.fail]),
        { blockedInDrain with inputs := [.arrive (onStream [1, 2, 3, 4])] }],
      s.settled = true ∧ (s.inputs.all fun i => !i.paced) = true ∧ s.inputs ≠ [] ∧
      (match step s with
        | .next _ => true
        | _ => false) = true := by decide +kernel

theorem test_witness_RequestToABusyEngineIsLost :
    (busyWith (.request 0x20000#19)).busy = true ∧ isRequest (.sessOpen 0x2A) = true ∧
    (busyWith (.request 0x20000#19)).inputs = .request 0x20000#19 :: [] ∧
    (busyWith (.message [0x01])).busy = true ∧ (busyWith (.message [0x01])).inputs = .message [0x01] :: [] := by decide

/-- Three bytes of four: the most a stream can hold and not answer. -/
theorem test_witness_HungEngineIsStuckByName :
    { blocked (.chkrdy 0 0) with rx := onStream [1, 2, 3] }.wait = .read .chkrdy ∧
    { blocked (.chkrdy 0 0) with rx := onStream [1, 2, 3] }.inputs = [] ∧ [1#8, 2#8, 3#8].length < Parser.chkrdy.readLen ∧
    blockedInDrain.wait = .drain .chkrdy .checksumMismatch ∧ blockedInDrain.inputs = [] ∧ blockedInDrain.rx = onStream [] := by
  decide +kernel

theorem test_witness_ChecksumPortWritesItsResult :
    State.reset.busy = false ∧ (blocked (.chkrdy 0 0)).busy = true := by decide

/-- The four builder statements; SESS.CMD's and the REQ forms' commands at the ends of their ranges. -/
theorem test_witness_builders :
    State.reset.busy = false ∧ (0x00#8 ≠ 0x01#8 ∧ 0x02#8 ≠ 0x01#8) ∧
    (0 < (0x01#8).toNat ∧ (0x01#8).toNat < 5 ∧ 0 < (0x04#8).toNat ∧ (0x04#8).toNat < 5) ∧
    ((0x00#8).toNat = 0 ∧ 5 ≤ (0x05#8).toNat ∧ 5 ≤ (0xFF#8).toNat) := by decide

theorem test_witness_BuiltFramesPassTheCheck :
    isBuilder (.sessOpen 0x2A) = true ∧ State.reset.busy = false ∧ ∃ t, exec (.sessOpen 0x2A) State.reset = .next t :=
  ⟨rfl, rfl, _, rfl⟩

theorem test_witness_WriteAnswerIsListedOrFree :
    (line [] [.fail, .ok]).txAnswers = .fail :: [.ok] ∧ State.reset.txAnswers = [] ∧ isBuilder (.reqEnrg 0x2A 0x05) = true := by
  decide

/-- The success statements: a stream that holds the right frame, with something behind it. -/
theorem test_witness_parser_success :
    (line (onStream (frame [0x99, 0x00]) ++ [.fail]) []).rx = onStream (frame [0x99, 0x00]) ++ [.fail] ∧
    (line (onStream (frame (0x2A#8 :: List.replicate 9 0xFF)) ++ []) []).rx =
      onStream (frame (0x2A#8 :: List.replicate 9 0xFF)) ++ [] ∧
    (line (onStream (frame (0x2A#8 :: List.replicate 12 0xFF)) ++ []) []).rx =
      onStream (frame (0x2A#8 :: List.replicate 12 0xFF)) ++ [] ∧
    (line (onStream (frame ([0x2A#8, 0xFF, 0xFF, 0xFF, 0xFF] ++ List.replicate 12 0x00)) ++ []) []).rx =
      onStream (frame ([0x2A#8, 0xFF, 0xFF, 0xFF, 0xFF] ++ List.replicate 12 0x00)) ++ [] ∧
    (List.replicate 12 (0x00 : Byte)).length = 12 ∧ Params.reference.wf = true ∧
    Params.reference.cmdCurrent ≠ Params.reference.cmdVoltage ∧ State.reset.busy = false :=
  ⟨rfl, rfl, rfl, rfl, rfl, rfl, by decide, rfl⟩

/-- A wrong trailer with the drain answered, given up before its last byte, and not answered. -/
theorem test_witness_WrongTrailerDrainsAndFails :
    State.reset.busy = false ∧ parserRequest Params.reference (.chkrdy 0 0) = some (.chkrdy, 2#3, 0x00, 0x00) ∧
    [0x2A#8, 0x00#8, 0x1F#8, 0xD0#8].length = Parser.chkrdy.readLen ∧
    [0x2A#8, 0x00#8, 0x1F#8, 0xD0#8] ≠ frame [0x2A#8, 0x00#8] ∧
    (line (onStream [0x2A, 0x00, 0x1F, 0xD0] ++ (onStream [1, 2, 3, 4] ++ [.fail])) []).rx =
      onStream [0x2A, 0x00, 0x1F, 0xD0] ++ (onStream [1, 2, 3, 4] ++ [.fail]) ∧
    (line (onStream [0x2A, 0x00, 0x1F, 0xD0] ++ (onStream [1, 2, 3] ++ .fail :: [])) []).rx =
      onStream [0x2A, 0x00, 0x1F, 0xD0] ++ (onStream [1, 2, 3] ++ .fail :: []) ∧
    (line (onStream [0x2A, 0x00, 0x1F, 0xD0] ++ onStream [1, 2, 3]) []).rx =
      onStream [0x2A, 0x00, 0x1F, 0xD0] ++ onStream [1, 2, 3] := by decide +kernel

/-- The least and the greatest non-zero status byte, with the drain answered, given up and not answered. -/
theorem test_witness_NonZeroStatusDrainsAndFails :
    State.reset.busy = false ∧ 0x01#8 ≠ 0x00#8 ∧ 0xFF#8 ≠ 0x00#8 ∧
    (line (onStream (frame [0x2A, 0x01]) ++ (onStream [1, 2, 3, 4] ++ [])) []).rx =
      onStream (frame [0x2A, 0x01]) ++ (onStream [1, 2, 3, 4] ++ []) ∧
    (line (onStream (frame [0x2A, 0xFF]) ++ (onStream [] ++ .fail :: [])) []).rx =
      onStream (frame [0x2A, 0xFF]) ++ (onStream [] ++ .fail :: []) ∧
    (line (onStream (frame [0x2A, 0xFF]) ++ onStream [1, 2, 3]) []).rx =
      onStream (frame [0x2A, 0xFF]) ++ onStream [1, 2, 3] := by decide +kernel

theorem test_witness_TransportFailureIsReportedWithoutADrain :
    State.reset.busy = false ∧ parserRequest Params.reference (.rdenergy 0 0) = some (.rdenergy, 5#3, 0x00, 0x00) ∧
    (List.replicate 18 (0x00 : Byte)).length < Parser.rdenergy.readLen ∧
    (line (onStream (List.replicate 18 0x00) ++ .fail :: []) []).rx = onStream (List.replicate 18 0x00) ++ .fail :: [] ∧
    isBuilder (.sessCmd 0x2A 0x02) = true ∧ (line [] [.fail]).txAnswers = .fail :: [] := by decide

theorem test_witness_UnansweredReadLeavesTheEngineBusy :
    State.reset.busy = false ∧
    parserRequest Params.reference (.rdvalP 0) = some (.rdval .P, 4#3, 0x00, Params.reference.cmdPower) ∧
    (List.replicate 14 (0x00 : Byte)).length < (Parser.rdval .P).readLen ∧
    (line (onStream (List.replicate 14 0x00)) []).rx = onStream (List.replicate 14 0x00) := by decide

theorem test_witness_ArrivalTimeIsNotObservable :
    State.reset.busy = false ∧ isRequest (.chkrdy 0 0) = true ∧ isRequest (.sessOpen 0x2A) = true ∧
    isRequest (.illegalOperand 0 9) = true := by decide

theorem test_witness_ReservedCodeOnlyWritesStatus :
    State.reset.busy = false ∧ ∀ op ∈ [0#3, 6#3, 7#3], (op = 0#3 ∨ op = 6#3 ∨ op = 7#3) := by decide

theorem test_witness_UnknownChannelClearsTheTriple :
    State.reset.busy = false ∧ 0x04#8 ≠ State.reset.params.cmdVoltage ∧ 0x04#8 ≠ State.reset.params.cmdCurrent ∧
    0x04#8 ≠ State.reset.params.cmdPower ∧ 0x00#8 ≠ Params.reference.cmdVoltage := by decide

theorem test_witness_Dec24pMasksAndDivides : (0xF7#8).toNat % 16 = (0x07#8).toNat % 16 := by decide

/-- Each of the four frame forms, at an engine with no read outstanding: idle, accepted, rejected. -/
theorem test_witness_response_and_request_frames :
    State.reset.wait = .none ∧ (∃ t, (State.reset.enter 0x20000#19).wait = .accepted t) ∧
    (∃ p e, rejectedFirst.wait = .rejected p e) ∧ (∃ x st k, Instr.fAck 1 2 3 = .fAck x st k) ∧
    (∃ x f0 f1 f2 k, Instr.fMeas12 1 ⟨1, 2, 3⟩ ⟨1, 2, 3⟩ ⟨1, 2, 3⟩ 9 = .fMeas12 x f0 f1 f2 k) ∧
    (∃ x sk f0 f1 f2 k,
      Instr.fMeas15 1 ⟨0, 0, 0⟩ ⟨1, 2, 3⟩ ⟨1, 2, 3⟩ ⟨1, 2, 3⟩ 9 = .fMeas15 x sk f0 f1 f2 k) ∧
    (∃ x e1 e2 e3 e4 o k, Instr.fEnergy 1 2 3 4 5 [] 6 = .fEnergy x e1 e2 e3 e4 o k) ∧
    (∃ a, Instr.fOpen 0x2A = .fOpen a) ∧ (∃ a c, Instr.fSess 0x2A 2 = .fSess a c) ∧
    (∃ a c, Instr.fReqInst 0x2A 1 = .fReqInst a c) ∧ ∃ a c, Instr.fReqEnrg 0x2A 5 = .fReqEnrg a c :=
  ⟨rfl, ⟨_, rfl⟩, ⟨.chkrdy, .checksumMismatch, by decide +kernel⟩, ⟨_, _, _, rfl⟩, ⟨_, _, _, _, _, rfl⟩,
    ⟨_, _, _, _, _, _, rfl⟩, ⟨_, _, _, _, _, _, _, rfl⟩, ⟨_, rfl⟩, ⟨_, _, rfl⟩, ⟨_, _, rfl⟩, _, _, rfl⟩

/-- One blocked engine for each clause, with a clear RXBUF and an empty stream; both channels of F-MEAS12. -/
theorem test_witness_ResponseFrameEndsTheWaitingRead :
    ∀ c ∈ [(Instr.chkrdy 0 0, Parser.chkrdy), (.rdvalV 0, .rdval .V), (.rdvalI 0, .rdval .I), (.rdvalP 0, .rdval .P),
        (.rdenergy 0 0, .rdenergy)],
      (blocked c.1).rxBuf = Memory.cleared ∧ (blocked c.1).rx = [] ∧ (blocked c.1).wait = .read c.2 := by decide

theorem test_witness_EveryRequestEndsOrWaits : State.reset.busy = false := rfl

/-- Each register does change: by its own operation at an idle engine, or by a frame at a blocked one. -/
theorem test_witness_ResultRegistersHaveOneWriter :
    (shown (.chkrdy 0 0) (line (onStream (frame [0x2A, 0x00])) []) (·.ready) = some true ∧ State.reset.ready = false) ∧
    (shown (.rdvalV 0) { State.reset with triple := { Triple.sentinel with i := ⟨1, 2, 3⟩ } } (·.triple) =
      some Triple.sentinel) ∧
    (shown (.fEnergy 0x2A 0x10 0x20 0x30 0x40 (List.replicate 12 0) 0x3CAC) (blocked (.rdenergy 0 0)) (·.energy) =
      some 0x20104030 ∧ (blocked (.rdenergy 0 0)).energy = 0xFFFFFFFF) ∧
    shown (.crc16 [0x01, 0x03]) State.reset (·.crcOut) = some 0x2140 := by decide +kernel

/-- Each channel's request, and one that does not succeed. -/
theorem test_witness_RdvalLeavesTheOtherChannelsSentinel :
    State.reset.busy = false ∧
    (∀ c ∈ [(Instr.rdvalV 7, Channel.V, Params.reference.cmdVoltage), (.rdvalI 7, .I, Params.reference.cmdCurrent),
        (.rdvalP 7, .P, Params.reference.cmdPower)],
      parserRequest Params.reference c.1 = some (.rdval c.2.1, 4#3, 0x07, c.2.2)) ∧
    shown (.rdvalP 0) State.reset State.succeeded = some false := by decide

theorem test_witness_TransportCallsOfOneRequest :
    State.reset.busy = false ∧ isBuilder (.reqInst 0x2A 1) = true ∧ isIllegal (.illegalOperation 0#3 0 0) = true ∧
    parserRequest Params.reference (.chkrdy 0 0) = some (.chkrdy, 2#3, 0x00, 0x00) ∧
    (∃ t, exec (.reqInst 0x2A 1) State.reset = .next t) ∧ (∃ t, exec (.illegalOperation 0#3 0 0) State.reset = .next t) ∧
    ∃ t, exec (.chkrdy 0 0) State.reset = .next t :=
  ⟨rfl, rfl, rfl, rfl, ⟨_, rfl⟩, ⟨_, rfl⟩, _, rfl⟩

theorem test_witness_OldScratchNeverMatters :
    State.reset.sameButScratch { State.reset with acc := 0x1234, txBuf := [(3, 0x55)], rxBuf := [(0, 0x2A)] } ∧
    State.reset.busy = false ∧ State.reset.wait = .none ∧ isRequest (.rdvalP 0) = true ∧
    isResponse (.fAck 0x2A 0x00 0xD01E) = true :=
  ⟨rfl, rfl, rfl, rfl, rfl⟩

/-- Two states of the invariant with different scratch: both idle, and both with an accepted task. -/
theorem test_witness_OldScratchNeverMattersOverSteps :
    (State.reset.Inv ∧ { State.reset with acc := 0x1234, txBuf := [(3, 0x55)], rxBuf := [(0, 0x2A)] }.Inv ∧
      State.reset.sameButScratch { State.reset with acc := 0x1234, txBuf := [(3, 0x55)], rxBuf := [(0, 0x2A)] }) ∧
    (State.reset.enter 0x20000#19).Inv ∧ { State.reset.enter 0x20000#19 with acc := 0x1234, rxBuf := [(0, 0x2A)] }.Inv ∧
    (State.reset.enter 0x20000#19).sameButScratch
      { State.reset.enter 0x20000#19 with acc := 0x1234, rxBuf := [(0, 0x2A)] } :=
  ⟨⟨by constructor <;> decide, by constructor <;> decide, rfl⟩, by constructor <;> decide, by constructor <;> decide, rfl⟩

theorem test_witness_StepsFixParametersAndExtendHistory :
    ∃ t, step { State.reset with inputs := [.request 0x20000#19] } = .next t := ⟨_, rfl⟩

end Sys2Proof.Tests
end

section
/-! PROOFS. O51: the parameters are fixed and the calls made are never taken back (00_scope.md R7, 10_state.md R25). -/

namespace Sys2Proof.Machine

/-- The parameters kept, and no transport call taken back: it composes, so it goes through every shared operation. -/
structure State.ExtendedBy (s t : State) : Prop where
  params : t.params = s.params
  history : ∃ more, t.history = s.history ++ more

/-- An update of the other fields: both equations hold by definition. -/
theorem State.ExtendedBy.of_eq {s t : State} (hp : t.params = s.params) (hh : t.history = s.history) :
    s.ExtendedBy t := ⟨hp, [], by rw [hh, List.append_nil]⟩

theorem State.ExtendedBy.refl (s : State) : s.ExtendedBy s := .of_eq rfl rfl

theorem State.ExtendedBy.trans {s t u : State} (h : s.ExtendedBy t) (h' : t.ExtendedBy u) : s.ExtendedBy u := by
  obtain ⟨hp, m, hm⟩ := h
  obtain ⟨hp', m', hm'⟩ := h'
  exact ⟨hp'.trans hp, m ++ m', by rw [hm', hm, List.append_assoc]⟩

/-- An operation prepared by an update of the other fields. -/
theorem State.ExtendedBy.congr_left {s s' t : State} (h : s'.ExtendedBy t) (hp : s'.params = s.params)
    (hh : s'.history = s.history) : s.ExtendedBy t := (State.ExtendedBy.of_eq hp hh).trans h

theorem WritesOnly.extendedBy {p : Parser} {s t : State} (h : WritesOnly p s t) : s.ExtendedBy t :=
  ⟨h.params, h.history⟩

/-! ## The moves of an operation -/

@[simp] theorem State.startParser_params (p : Parser) (s : State) : (s.startParser p).params = s.params := by
  cases p <;> rfl

theorem State.raise_without_drain {e : Cause} (he : e.drains = false) (p : Parser) (s : State) :
    s.raise e (.parser p) = s.recover e (.parser p) := by simp [State.raise, he]

theorem State.extendedBy_callRx (n : Nat) (s : State) : s.ExtendedBy (s.callRx n) := ⟨rfl, _, rfl⟩

theorem State.extendedBy_raise (e : Cause) (p : Parser) (s : State) : s.ExtendedBy (s.raise e (.parser p)) := by
  cases he : e.drains with
  | true =>
    rw [State.raise_drains he]
    exact (s.extendedBy_callRx p.drainLen).trans (State.continueDrain_writesOnly e p _).extendedBy
  | false =>
    rw [State.raise_without_drain he]
    exact (State.recover_writesOnly e p s).extendedBy

/-- Only a builder's write and a parser's reads are added; an illegal request makes no call (R134, R150, R208). -/
theorem State.extendedBy_perform (t : Task) (s : State) : s.ExtendedBy (s.perform t) := by
  cases t with
  | build f =>
    rw [State.perform_build]
    exact ⟨rfl, _, rfl⟩
  | parse p => exact (State.runParser_writesOnly p s).extendedBy
  | illegalOperation => exact .of_eq rfl rfl
  | illegalOperand => exact .of_eq rfl rfl

theorem State.extendedBy_firstMove (t : Task) (s : State) : s.ExtendedBy (s.firstMove t) := by
  cases t with
  | parse p => exact ⟨s.startParser_params p, [.rx p.readLen], s.startParser_history p⟩
  | build f => exact s.extendedBy_perform (.build f)
  | illegalOperation => exact s.extendedBy_perform .illegalOperation
  | illegalOperand => exact s.extendedBy_perform .illegalOperand

theorem State.extendedBy_judge (p : Parser) (s : State) : s.ExtendedBy (s.judge p) := by
  rcases State.judge_eq p s with ⟨e, -, h⟩ | ⟨-, h⟩ <;> rw [h]
  · exact .of_eq rfl rfl
  · cases p <;> exact .of_eq rfl rfl

theorem State.extendedBy_readMove (p : Parser) (s : State) : s.ExtendedBy (s.readMove p) := by
  rcases State.readMove_cases p s with ⟨-, h⟩ | ⟨rest, -, h⟩ | ⟨bytes, rest, -, h⟩ <;> rw [h]
  · exact .refl s
  · exact (State.recover_writesOnly .transportFailure p { s with rx := rest }).extendedBy.congr_left rfl rfl
  · exact (State.extendedBy_judge p ({ s with rx := rest }.receive p.readLen bytes)).congr_left (s := s) rfl rfl

/-! ## The engine at each point where it can stand (log 14) -/

theorem State.extendedBy_advance (s : State) : s.ExtendedBy s.advance := by
  unfold State.advance
  cases s.wait with
  | none => exact .refl s
  | accepted t => exact s.extendedBy_firstMove t
  | read p => exact s.extendedBy_readMove p
  | rejected p e => exact ⟨rfl, _, rfl⟩
  | drain p e => exact (State.continueDrain_writesOnly e p s).extendedBy

theorem State.extendedBy_goOn (s : State) : s.ExtendedBy s.goOn := by
  unfold State.goOn
  cases s.wait with
  | none => exact .refl s
  | accepted t => exact s.extendedBy_perform t
  | read p => exact (State.continueRead_writesOnly p s).extendedBy
  | rejected p e => exact s.extendedBy_raise e p
  | drain p e => exact (State.continueDrain_writesOnly e p s).extendedBy

theorem State.extendedBy_resume (s : State) : s.ExtendedBy s.resume := by
  unfold State.resume
  cases s.wait with
  | none => exact .refl s
  | accepted t => exact .refl s
  | read p => exact (State.continueRead_writesOnly p s).extendedBy
  | rejected p e => exact .refl s
  | drain p e => exact (State.continueDrain_writesOnly e p s).extendedBy

/-! ## The moves of the outside world -/

theorem State.extendedBy_deliver (items : List RxItem) (s : State) : s.ExtendedBy (s.deliver items) :=
  (State.extendedBy_resume { s with rx := s.rx ++ items }).congr_left rfl rfl

theorem State.extendedBy_serve (op : BitVec 3) (a c : Byte) (t : Task) (s : State) :
    s.ExtendedBy (s.serve op a c t) := by
  cases hb : s.busy with
  | true =>
    rw [State.serve_busy hb]
    exact .refl s
  | false =>
    rw [State.serve_idle hb]
    exact ((s.accept op a c).extendedBy_perform t).congr_left rfl rfl

theorem State.extendedBy_enter (w : RequestWord) (s : State) : s.ExtendedBy (s.enter w) := by
  cases hb : s.busy with
  | true =>
    rw [State.enter_busy hb]
    exact .refl s
  | false =>
    obtain ⟨t, ht⟩ := requestTask_decodeRequest s.params w
    rw [State.enter_idle hb ht]
    exact .of_eq rfl rfl

/-- An instruction that asks for a task serves that task, whatever operands it is served with. -/
theorem exec_eq_serve {i : Instr} {t : Task} (h : requestTask i = some t) (s : State) :
    ∃ op a c, exec i s = .next (s.serve op a c t) := by
  cases i <;> cases h <;> exact ⟨_, _, _, rfl⟩

theorem extendedBy_of_exec_decodeRequest {p : Params} {w : RequestWord} {s t : State}
    (h : exec (decodeRequest p w) s = .next t) : s.ExtendedBy t := by
  obtain ⟨task, htask⟩ := requestTask_decodeRequest p w
  obtain ⟨op, a, c, hexec⟩ := exec_eq_serve htask s
  cases hexec.symm.trans h
  exact s.extendedBy_serve op a c task

theorem extendedBy_of_exec_crc16 {m : List Byte} {s t : State} (h : exec (.crc16 m) s = .next t) :
    s.ExtendedBy t := by
  cases h
  split
  · exact .refl s
  · exact .of_eq rfl rfl

/-- Taking the input off the list is no part of the relation; what is left is the input's own move. -/
theorem extendedBy_of_step {s t : State} (h : step s = .next t) : s.ExtendedBy t := by
  unfold step at h
  cases hi : s.inputs with
  | nil =>
    rw [hi] at h
    cases hs : s.stuck <;> rw [hs] at h <;> cases h
    exact s.extendedBy_goOn
  | cons i rest =>
    rw [hi] at h
    have dequeued : s.ExtendedBy { s with inputs := rest } := .of_eq rfl rfl
    refine dequeued.trans ?_
    cases i with
    | request w => exact extendedBy_of_exec_decodeRequest h
    | message m => exact extendedBy_of_exec_crc16 h
    | reset =>
      cases h
      exact .of_eq rfl rfl
    | arrive items =>
      cases h
      exact State.extendedBy_deliver items _
    | enter w =>
      cases h
      exact State.extendedBy_enter w _
    | advance =>
      cases h
      exact State.extendedBy_advance _
    | queue items =>
      cases h
      exact .of_eq rfl rfl

/-- Settles O51: each input's move extends the history and keeps the parameters. -/
theorem stepsFixParametersAndExtendHistory : Obligations.StepsFixParametersAndExtendHistory := by
  intro s t h
  obtain ⟨hparams, hhistory⟩ := extendedBy_of_step h
  exact ⟨hparams, hhistory⟩

end Sys2Proof.Machine
end

section
/-! PROOFS. A step as the move of one input, and the engine's moves one by one (O53, O54): a request is the word
accepted and gone on with, so what holds of `enter` and `goOn` holds of requests too (10_state.md R21, R22; log 5,
log 14). -/

namespace Sys2Proof.Machine

/-! ## An operation overwrites the marker of where it stood -/

theorem State.raise_wait (e : Cause) (p : Parser) (w : Wait) (s : State) :
    ({ s with wait := w } : State).raise e (.parser p) = s.raise e (.parser p) := by
  cases he : e.drains with
  | true =>
    simp only [State.raise_drains he]
    exact State.continueDrain_wait e p w (s.callRx p.drainLen)
  | false =>
    simp only [State.raise_without_drain he]
    exact State.recover_wait e (.parser p) w s

theorem State.startParser_wait (p : Parser) (w : Wait) (s : State) :
    ({ s with wait := w } : State).startParser p = { s.startParser p with wait := w } := by
  rcases p with _ | ch | _ <;> rfl

theorem State.runParser_wait (p : Parser) (w : Wait) (s : State) :
    ({ s with wait := w } : State).runParser p = s.runParser p := by
  rw [State.runParser, State.startParser_wait, State.continueRead_wait, State.runParser]

theorem State.perform_wait (t : Task) (w : Wait) (s : State) :
    ({ s with wait := w } : State).perform t = s.perform t := by
  cases t with
  | build f =>
    simp only [State.perform_build]
    rfl
  | parse p => exact State.runParser_wait p w s
  | illegalOperation => exact State.recover_wait .illegalOperation .illegalOperation w s
  | illegalOperand => exact State.recover_wait .illegalOperand .illegalOperand w s

/-! ## The engine at each point where it can stand -/

section
variable {s : State}

theorem State.goOn_none (h : s.wait = .none) : s.goOn = s := by simp [State.goOn, h]

theorem State.goOn_accepted {t : Task} (h : s.wait = .accepted t) : s.goOn = s.perform t := by simp [State.goOn, h]

theorem State.goOn_read {p : Parser} (h : s.wait = .read p) : s.goOn = s.continueRead p := by simp [State.goOn, h]

theorem State.goOn_rejected {p : Parser} {e : Cause} (h : s.wait = .rejected p e) :
    s.goOn = s.raise e (.parser p) := by simp [State.goOn, h]

theorem State.goOn_drain {p : Parser} {e : Cause} (h : s.wait = .drain p e) : s.goOn = s.continueDrain e p := by
  simp [State.goOn, h]

theorem State.deliver_none (h : s.wait = .none) (items : List RxItem) :
    s.deliver items = { s with rx := s.rx ++ items } := by simp only [State.deliver, State.resume, h]

theorem State.deliver_read {p : Parser} (h : s.wait = .read p) (items : List RxItem) :
    s.deliver items = { s with rx := s.rx ++ items }.continueRead p := by simp only [State.deliver, State.resume, h]

theorem State.deliver_drain {p : Parser} {e : Cause} (h : s.wait = .drain p e) (items : List RxItem) :
    s.deliver items = { s with rx := s.rx ++ items }.continueDrain e p := by simp only [State.deliver, State.resume, h]

/-- A settled engine is idle, or in a first read or a drain that is not answered (R213). -/
theorem State.settled_iff : s.settled = true ↔
    s.wait = .none ∨ (∃ p, s.wait = .read p ∧ rxTake p.readLen s.rx = .silent) ∨
      (∃ p e, s.wait = .drain p e ∧ rxTake p.drainLen s.rx = .silent) := by
  unfold State.settled State.stuck rxSilent
  cases s.wait <;> simp

/-- Going on changes nothing at a settled engine: an unanswered read leaves it where it is. -/
theorem State.goOn_settled (h : s.settled = true) : s.goOn = s := by
  rcases State.settled_iff.1 h with hw | ⟨p, hw, hr⟩ | ⟨p, e, hw, hr⟩
  · exact State.goOn_none hw
  · rw [State.goOn_read hw, State.continueRead, hr, ← hw]
  · rw [State.goOn_drain hw, State.continueDrain, hr, ← hw]

theorem State.advance_settled (h : s.settled = true) : s.advance = s := by
  rcases State.settled_iff.1 h with hw | ⟨p, hw, hr⟩ | ⟨p, e, hw, hr⟩
  · simp [State.advance, hw]
  · simp [State.advance, hw, State.readMove, hr]
  · simp only [State.advance, hw]
    rw [State.continueDrain, hr, ← hw]
end

/-! ## One move loses nothing of what going on would do -/

section
variable (p : Parser) (e : Cause) (s : State)

/-- A drain once tried is settled, so going on adds nothing. -/
theorem State.goOn_continueDrain : (s.continueDrain e p).goOn = s.continueDrain e p := by
  rcases State.continueDrain_cases e p s with ⟨hr, h⟩ | ⟨rest, -, h⟩ <;> rw [h]
  · exact State.goOn_settled (State.settled_iff.2 (.inr (.inr ⟨p, e, rfl, hr⟩)))
  · exact State.goOn_none rfl

theorem State.goOn_judge : (s.judge p).goOn = s.conclude p := by
  unfold State.conclude State.judge
  cases s.verdict p with
  | some e =>
    rw [State.goOn_rejected rfl]
    exact State.raise_wait e p _ s
  | none => exact State.goOn_none rfl

theorem State.goOn_readMove (h : s.wait = .read p) : (s.readMove p).goOn = s.continueRead p := by
  unfold State.readMove State.continueRead
  cases hr : rxTake p.readLen s.rx with
  | silent =>
    rw [← h]
    exact State.goOn_settled (State.settled_iff.2 (.inr (.inl ⟨p, h, hr⟩)))
  | failed rest => exact State.goOn_none rfl
  | got bytes rest => exact State.goOn_judge p _

theorem State.goOn_firstMove (t : Task) : (s.firstMove t).goOn = s.perform t := by
  cases t with
  | parse p =>
    rw [State.firstMove, State.goOn_read rfl]
    exact State.continueRead_wait p _ (s.startParser p)
  | build f =>
    rw [State.firstMove, State.perform_build]
    exact State.goOn_none rfl
  | illegalOperation => exact State.goOn_none rfl
  | illegalOperand => exact State.goOn_none rfl

end

/-- The error of a rejected response has a drain to come: the verdict's errors are such (R160). -/
def State.drainsToCome (s : State) : Prop := ∀ p e, s.wait = .rejected p e → e.drains = true

/-- One move and then going on is going on. -/
theorem State.goOn_advance {s : State} (h : s.drainsToCome) : s.advance.goOn = s.goOn := by
  unfold State.advance
  cases hw : s.wait with
  | none => rfl
  | accepted t => rw [State.goOn_accepted hw, State.goOn_firstMove]
  | read p => rw [State.goOn_read hw, State.goOn_readMove p s hw]
  | rejected p e =>
    rw [State.goOn_rejected hw, State.raise_drains (h p e hw), State.goOn_drain rfl]
    exact State.continueDrain_wait e p _ (s.callRx p.drainLen)
  | drain p e => rw [State.goOn_drain hw, State.goOn_continueDrain]

/-! ## An operation is at most four moves -/

/-- The moves an engine still has before it, at most: none where it is settled. -/
def State.movesLeft (s : State) : Nat :=
  if s.settled then 0
  else
    match s.wait with
    | .none => 0
    | .drain _ _ => 1
    | .rejected _ _ => 2
    | .read _ => 3
    | .accepted _ => 4

section
variable {s : State}

theorem State.movesLeft_settled (h : s.settled = true) : s.movesLeft = 0 := by simp [State.movesLeft, h]

theorem State.movesLeft_none (h : s.wait = .none) : s.movesLeft = 0 :=
  State.movesLeft_settled (State.settled_iff.2 (.inl h))

theorem State.movesLeft_drain {p : Parser} {e : Cause} (h : s.wait = .drain p e) : s.movesLeft ≤ 1 := by
  unfold State.movesLeft
  split <;> simp [h]

theorem State.movesLeft_rejected {p : Parser} {e : Cause} (h : s.wait = .rejected p e) : s.movesLeft = 2 := by
  simp [State.movesLeft, State.settled, State.stuck, h]

theorem State.movesLeft_read {p : Parser} (h : s.wait = .read p) : s.movesLeft ≤ 3 := by
  unfold State.movesLeft
  split <;> simp [h]

theorem State.movesLeft_accepted {t : Task} (h : s.wait = .accepted t) : s.movesLeft = 4 := by
  simp [State.movesLeft, State.settled, State.stuck, h]

theorem State.settled_of_movesLeft (h : s.movesLeft = 0) : s.settled = true := by
  unfold State.movesLeft at h
  by_cases hs : s.settled = true
  · exact hs
  · rw [if_neg hs] at h
    cases hw : s.wait with
    | none => exact State.settled_iff.2 (.inl hw)
    | _ => simp [hw] at h

end

/-- A first move ends the operation or issues its read. -/
theorem State.firstMove_wait (t : Task) (s : State) :
    (s.firstMove t).wait = .none ∨ ∃ p, (s.firstMove t).wait = .read p := by
  cases t with
  | parse p => exact .inr ⟨p, rfl⟩
  | build f => exact .inl (congrArg State.wait (State.perform_build f s))
  | illegalOperation => exact .inl rfl
  | illegalOperand => exact .inl rfl

/-- An answered read ends the operation or leaves a response rejected for a draining error. -/
theorem State.readMove_wait {p : Parser} {s : State} (h : rxTake p.readLen s.rx ≠ .silent) :
    (s.readMove p).wait = .none ∨ ∃ e, (s.readMove p).wait = .rejected p e ∧ e.drains = true := by
  rcases State.readMove_cases p s with ⟨hr, -⟩ | ⟨rest, -, hm⟩ | ⟨bytes, rest, -, hm⟩
  · exact absurd hr h
  · exact .inl (congrArg State.wait hm)
  · rw [hm]
    rcases State.judge_eq p ({ s with rx := rest }.receive p.readLen bytes) with ⟨e, hv, hj⟩ | ⟨-, hj⟩
    · exact .inr ⟨e, congrArg State.wait hj, State.verdict_drains hv⟩
    · exact .inl (congrArg State.wait hj)

/-- An answered drain ends the operation. -/
theorem State.continueDrain_wait_none {p : Parser} {e : Cause} {s : State} (h : rxTake p.drainLen s.rx ≠ .silent) :
    (s.continueDrain e p).wait = .none := by
  rcases State.continueDrain_cases e p s with ⟨hr, -⟩ | ⟨rest, -, hd⟩
  · exact absurd hr h
  · rw [hd]
    rfl

/-- Where one move takes an engine that is not settled: on to a later point. -/
theorem State.advance_wait {s : State} (h : s.settled ≠ true) :
    (∃ t, s.wait = .accepted t ∧ (s.advance.wait = .none ∨ ∃ p, s.advance.wait = .read p)) ∨
    (∃ p, s.wait = .read p ∧
      (s.advance.wait = .none ∨ ∃ e, s.advance.wait = .rejected p e ∧ e.drains = true)) ∨
    (∃ p e, s.wait = .rejected p e ∧ s.advance.wait = .drain p e) ∨
    (∃ p e, s.wait = .drain p e ∧ s.advance.wait = .none) := by
  unfold State.advance
  cases hw : s.wait with
  | none => exact absurd (State.settled_iff.2 (.inl hw)) h
  | accepted t => exact .inl ⟨t, rfl, s.firstMove_wait t⟩
  | read p =>
    have hr : rxTake p.readLen s.rx ≠ .silent := fun hr => h (State.settled_iff.2 (.inr (.inl ⟨p, hw, hr⟩)))
    exact .inr (.inl ⟨p, rfl, State.readMove_wait hr⟩)
  | rejected p e => exact .inr (.inr (.inl ⟨p, e, rfl, rfl⟩))
  | drain p e =>
    have hr : rxTake p.drainLen s.rx ≠ .silent := fun hr => h (State.settled_iff.2 (.inr (.inr ⟨p, e, hw, hr⟩)))
    exact .inr (.inr (.inr ⟨p, e, rfl, State.continueDrain_wait_none hr⟩))

theorem State.movesLeft_advance {s : State} {n : Nat} (h : s.movesLeft ≤ n + 1) : s.advance.movesLeft ≤ n := by
  by_cases hs : s.settled = true
  · rw [State.advance_settled hs, State.movesLeft_settled hs]
    exact n.zero_le
  unfold State.movesLeft at h
  rw [if_neg hs] at h
  rcases State.advance_wait hs with ⟨t, hw, ha⟩ | ⟨p, hw, ha⟩ | ⟨p, e, hw, ha⟩ | ⟨p, e, hw, ha⟩ <;>
    simp only [hw] at h
  · rcases ha with ha | ⟨p, ha⟩
    · exact (State.movesLeft_none ha).trans_le n.zero_le
    · exact (State.movesLeft_read ha).trans (by omega)
  · rcases ha with ha | ⟨e, ha, -⟩
    · exact (State.movesLeft_none ha).trans_le n.zero_le
    · exact (State.movesLeft_rejected ha).trans_le (by omega)
  · exact (State.movesLeft_drain ha).trans (by omega)
  · exact (State.movesLeft_none ha).trans_le n.zero_le

theorem State.drainsToCome_advance {s : State} (h : s.drainsToCome) : s.advance.drainsToCome := by
  intro p e hw
  by_cases hs : s.settled = true
  · rw [State.advance_settled hs] at hw
    exact h p e hw
  rcases State.advance_wait hs with ⟨_, -, ha | ⟨_, ha⟩⟩ | ⟨_, -, ha | ⟨_, ha, hd⟩⟩ | ⟨_, _, -, ha⟩ | ⟨_, _, -, ha⟩ <;>
    rw [ha] at hw <;> cases hw
  exact hd

/-- As many moves as the engine has left, or more, make what going on makes. -/
theorem State.iterate_advance_eq_goOn {n : Nat} : ∀ {s : State}, s.drainsToCome → s.movesLeft ≤ n →
    State.advance^[n] s = s.goOn := by
  induction n with
  | zero =>
    intro s _ hn
    exact (State.goOn_settled (State.settled_of_movesLeft (Nat.le_zero.1 hn))).symm
  | succ n ih =>
    intro s hd hn
    rw [Function.iterate_succ_apply, ih (State.drainsToCome_advance hd) (State.movesLeft_advance hn),
      State.goOn_advance hd]

/-! ## A request is its word accepted and gone on with -/

/-- Instructions of request words serve their word's three fields (R21). -/
theorem exec_request {i : Instr} {t : Task} (h : requestTask i = some t) (s : State) :
    ∃ w, encode s.params i = .request w ∧
      exec i s = .next (s.serve (requestOp w) (requestAddress w) (requestCommand w) t) := by
  cases i <;> cases h <;> refine ⟨_, rfl, ?_⟩ <;>
    simp only [requestWord, requestOp_append, requestAddress_append, requestCommand_append] <;> rfl

/-- A decoded word's instruction encodes to the word (R80, R82). -/
theorem encode_decodeRequest (p : Params) (w : RequestWord) : encode p (decodeRequest p w) = .request w := by
  conv_rhs => rw [← request_fields w]
  unfold decodeRequest decodeFields
  (repeat' split) <;> simp_all [encode, requestWord]

theorem exec_decodeRequest {s : State} {w : RequestWord} {t : Task}
    (h : requestTask (decodeRequest s.params w) = some t) :
    exec (decodeRequest s.params w) s =
      .next (s.serve (requestOp w) (requestAddress w) (requestCommand w) t) := by
  obtain ⟨v, hv, he⟩ := exec_request h s
  rw [encode_decodeRequest] at hv
  cases hv
  exact he

theorem goOn_enter {s : State} {w : RequestWord} {t : Task} (hb : s.busy = false)
    (h : requestTask (decodeRequest s.params w) = some t) :
    (s.enter w).goOn = (s.accept (requestOp w) (requestAddress w) (requestCommand w)).perform t := by
  rw [State.enter_idle hb h, State.goOn_accepted rfl]
  exact State.perform_wait t _ _

/-- A request to an idle engine. -/
theorem exec_decodeRequest_idle {s : State} (hb : s.busy = false) (w : RequestWord) :
    exec (decodeRequest s.params w) s = .next (s.enter w).goOn := by
  obtain ⟨t, ht⟩ := requestTask_decodeRequest s.params w
  rw [exec_decodeRequest ht, State.serve_idle hb, goOn_enter hb ht]

/-- A request to a busy engine is lost (R246). -/
theorem exec_decodeRequest_busy {s : State} (hb : s.busy = true) (w : RequestWord) :
    exec (decodeRequest s.params w) s = .next s := by
  obtain ⟨t, ht⟩ := requestTask_decodeRequest s.params w
  rw [exec_decodeRequest ht, State.serve_busy hb]

/-! ## A step -/

/-- What serving an input does, once it is off the list. -/
def State.move (i : Input) (s : State) : State :=
  match i with
  | .request w => if s.busy then s else (s.enter w).goOn
  | .message m => if s.busy then s else { s with crcOut := crc16 m, acc := crc16 m }
  | .reset => s.resetBlock
  | .arrive items => s.deliver items
  | .enter w => s.enter w
  | .advance => s.advance
  | .queue items => { s with rx := s.rx ++ items }

section
variable {s : State}

theorem State.move_request_idle (h : s.busy = false) (w : RequestWord) : s.move (.request w) = (s.enter w).goOn :=
  if_neg (by simp [h])

theorem State.move_request_busy (h : s.busy = true) (w : RequestWord) : s.move (.request w) = s := if_pos h

theorem State.move_message_idle (h : s.busy = false) (m : List Byte) :
    s.move (.message m) = { s with crcOut := crc16 m, acc := crc16 m } := if_neg (by simp [h])

theorem State.move_message_busy (h : s.busy = true) (m : List Byte) : s.move (.message m) = s := if_pos h
end

theorem exec_decodeRequest_eq_move (s : State) (w : RequestWord) :
    exec (decodeRequest s.params w) s = .next (s.move (.request w)) := by
  cases hb : s.busy with
  | false => rw [State.move_request_idle hb, exec_decodeRequest_idle hb]
  | true => rw [State.move_request_busy hb, exec_decodeRequest_busy hb]

theorem step_cons {s : State} {i : Input} {rest : List Input} (h : s.inputs = i :: rest) :
    step s = .next ({ s with inputs := rest }.move i) := by
  unfold step
  rw [h]
  cases i with
  | request w => exact exec_decodeRequest_eq_move { s with inputs := rest } w
  | message m => rfl
  | reset => rfl
  | arrive items => rfl
  | enter w => rfl
  | advance => rfl
  | queue items => rfl

theorem step_nil_stuck {s : State} (h : s.inputs = []) (hs : s.stuck = true) : step s = .fault .readNeverReturns := by
  simp [step, h, hs]

theorem step_nil {s : State} (h : s.inputs = []) (hs : s.stuck = false) : step s = .next s.goOn := by
  simp [step, h, hs]

/-- A step that answers next serves the first input, or goes on where none is left. -/
theorem step_next_cases {s t : State} (h : step s = .next t) :
    (s.inputs = [] ∧ s.stuck = false ∧ t = s.goOn) ∨
    (∃ i rest, s.inputs = i :: rest ∧ t = { s with inputs := rest }.move i) := by
  cases hi : s.inputs with
  | nil =>
    cases hs : s.stuck with
    | true => cases (step_nil_stuck hi hs).symm.trans h
    | false =>
      cases (step_nil hi hs).symm.trans h
      exact .inl ⟨rfl, rfl, rfl⟩
  | cons i rest =>
    cases (step_cons hi).symm.trans h
    exact .inr ⟨i, rest, rfl, rfl⟩

/-! ## The obligations -/

/-- Settles O54: one move and then going on is going on, and an accepted request has at most four moves left. -/
theorem pacedMovesMakeTheWholeOperation : Obligations.PacedMovesMakeTheWholeOperation := by
  refine ⟨fun s hd => State.goOn_advance hd, fun w s hb => ?_⟩
  obtain ⟨t, ht⟩ := requestTask_decodeRequest s.params w
  have hw : (s.enter w).wait = .accepted t := by rw [State.enter_idle hb ht]
  have hd : (s.enter w).drainsToCome := fun p e he => by rw [hw] at he; cases he
  have h4 := State.iterate_advance_eq_goOn hd (State.movesLeft_accepted hw).le
  rw [h4]
  exact ⟨exec_decodeRequest_idle hb w, exec_decodeRequest_idle hb w⟩

/-- Settles O53: each paced input's move is `enter`, `advance` or a longer stream. -/
theorem pacedInputsLetTheEngineStand : Obligations.PacedInputsLetTheEngineStand := by
  refine ⟨fun s w rest hi hb => ?_, fun s w rest hi hb => ?_, fun s rest hi => step_cons hi,
    fun s items rest hi => step_cons hi, fun s hi hs => step_nil hi hs⟩
  · obtain ⟨t, ht⟩ := requestTask_decodeRequest s.params w
    refine ⟨t, ht, (step_cons hi).trans (congrArg Host.Outcome.next ?_)⟩
    exact State.enter_idle (s := { s with inputs := rest }) hb ht
  · exact (step_cons hi).trans (congrArg Host.Outcome.next (State.enter_busy (s := { s with inputs := rest }) hb w))

end Sys2Proof.Machine
end

section
/-! PROOFS. How an operation that goes on ends (O46, O56): with BUSY 0 and a code from 1 to 6, or blocked in a read that
the stream does not answer (10_state.md R22, R25; 60_exceptions.md R201, R213). -/

namespace Sys2Proof.Machine

/-- An operation has ended, with a code of its own (R22, R201). -/
def State.Ended (t : State) : Prop := t.busy = false ∧ t.wait = .none ∧ 1 ≤ t.status.toNat ∧ t.status.toNat ≤ 6

/-- The operation of `s` stands at `t` in a read that is not answered: BUSY and STATUS are as they were (R213). -/
def State.BlocksAt (s t : State) : Prop := t.busy = s.busy ∧ t.wait ≠ .none ∧ t.stuck = true ∧ t.status = s.status

/-- An operation that went on from `s` to `t` kept the operand registers, and ended or is blocked. -/
structure State.EndsOrBlocks (s t : State) : Prop where
  op : t.op = s.op
  addr : t.addr = s.addr
  cmd : t.cmd = s.cmd
  ending : t.Ended ∨ s.BlocksAt t

theorem State.EndsOrBlocks.settled {s t : State} (h : s.EndsOrBlocks t) : t.settled = true := by
  obtain ⟨-, -, -, ⟨-, hw, -⟩ | ⟨-, -, hst, -⟩⟩ := h
  · simp [State.settled, hw]
  · simp [State.settled, hst]

/-- An operation prepared by an update of other fields. -/
theorem State.EndsOrBlocks.congr_left {s s' t : State} (h : s'.EndsOrBlocks t) (ho : s'.op = s.op)
    (ha : s'.addr = s.addr) (hc : s'.cmd = s.cmd) (hb : s'.busy = s.busy) (hs : s'.status = s.status) :
    s.EndsOrBlocks t := by
  obtain ⟨o, a, c, he⟩ := h
  refine ⟨o.trans ho, a.trans ha, c.trans hc, he.imp_right ?_⟩
  rintro ⟨b, hw, hst, st⟩
  exact ⟨b.trans hb, hw, hst, st.trans hs⟩

/-- Every cause has a code from 2 to 6 (R25, R200). -/
theorem Cause.code_range (e : Cause) : 1 ≤ e.code.toNat ∧ e.code.toNat ≤ 6 := by cases e <;> decide

/-- Either answer of a write has a code from 1 to 6 (R134, R207). -/
theorem writeCode_range (r : TxAnswer) :
    1 ≤ (if r = .ok then stOk else stTransportFailure).toNat ∧
      (if r = .ok then stOk else stTransportFailure).toNat ≤ 6 := by
  cases r <;> decide

theorem State.endsOrBlocks_recover (e : Cause) (o : Operation) (s : State) : s.EndsOrBlocks (s.recover e o) := by
  have hkept :
      (s.failureValue o).op = s.op ∧ (s.failureValue o).addr = s.addr ∧ (s.failureValue o).cmd = s.cmd := by
    rcases o with _ | (_ | ch | _) | _ | _ <;> exact ⟨rfl, rfl, rfl⟩
  obtain ⟨ho, ha, hc⟩ := hkept
  exact ⟨ho, ha, hc, .inl ⟨rfl, rfl, e.code_range⟩⟩

theorem State.endsOrBlocks_succeed (p : Parser) (s : State) : s.EndsOrBlocks (s.succeed p) := by
  have hok : 1 ≤ stOk.toNat ∧ stOk.toNat ≤ 6 := by decide
  rcases p with _ | ch | _ <;> exact ⟨rfl, rfl, rfl, .inl ⟨rfl, rfl, hok⟩⟩

theorem State.endsOrBlocks_continueDrain (e : Cause) (p : Parser) (s : State) :
    s.EndsOrBlocks (s.continueDrain e p) := by
  rcases State.continueDrain_cases e p s with ⟨hr, h⟩ | ⟨rest, -, h⟩ <;> rw [h]
  · exact ⟨rfl, rfl, rfl, .inr ⟨rfl, nofun, by simp [State.stuck, rxSilent, hr], rfl⟩⟩
  · exact (State.endsOrBlocks_recover e (.parser p) { s with rx := rest }).congr_left rfl rfl rfl rfl rfl

theorem State.endsOrBlocks_conclude (p : Parser) (s : State) : s.EndsOrBlocks (s.conclude p) := by
  rcases State.conclude_eq p s with ⟨e, -, h⟩ | ⟨-, h⟩ <;> rw [h]
  · exact (State.endsOrBlocks_continueDrain e p (s.callRx p.drainLen)).congr_left rfl rfl rfl rfl rfl
  · exact s.endsOrBlocks_succeed p

theorem State.endsOrBlocks_continueRead (p : Parser) (s : State) : s.EndsOrBlocks (s.continueRead p) := by
  rcases State.continueRead_cases p s with ⟨hr, h⟩ | ⟨rest, -, h⟩ | ⟨bytes, rest, -, h⟩ <;> rw [h]
  · exact ⟨rfl, rfl, rfl, .inr ⟨rfl, nofun, by simp [State.stuck, rxSilent, hr], rfl⟩⟩
  · have hrecover := State.endsOrBlocks_recover .transportFailure (.parser p) { s with rx := rest }
    exact hrecover.congr_left rfl rfl rfl rfl rfl
  · have hconclude := State.endsOrBlocks_conclude p ({ s with rx := rest }.receive p.readLen bytes)
    exact hconclude.congr_left (s := s) rfl rfl rfl rfl rfl

theorem State.endsOrBlocks_runParser (p : Parser) (s : State) : s.EndsOrBlocks (s.runParser p) := by
  have hstart := State.endsOrBlocks_continueRead p (s.startParser p)
  rcases p with _ | ch | _ <;> exact hstart.congr_left rfl rfl rfl rfl rfl

theorem State.endsOrBlocks_perform (t : Task) (s : State) : s.EndsOrBlocks (s.perform t) := by
  cases t with
  | build f =>
    rw [State.perform_build]
    exact ⟨rfl, rfl, rfl, .inl ⟨rfl, rfl, writeCode_range s.nextTxAnswer⟩⟩
  | parse p => exact s.endsOrBlocks_runParser p
  | illegalOperation => exact s.endsOrBlocks_recover .illegalOperation .illegalOperation
  | illegalOperand => exact s.endsOrBlocks_recover .illegalOperand .illegalOperand

/-- Only a parser's task can block: a write answers at once, and an illegal request makes no call (R54, R208). -/
theorem State.perform_ended_or_parse (t : Task) (s : State) : (s.perform t).wait = .none ∨ ∃ p, t = .parse p := by
  cases t with
  | build f => exact .inl (congrArg State.wait (State.perform_build f s))
  | parse p => exact .inr ⟨p, rfl⟩
  | illegalOperation => exact .inl rfl
  | illegalOperand => exact .inl rfl

theorem parserRequest_isSome_of_requestTask {i : Instr} {p : Parser} (h : requestTask i = some (.parse p))
    (ps : Params) : (parserRequest ps i).isSome = true := by
  cases i <;> cases h <;> rfl

/-- Settles O46: the accepted state has the word's fields; the task performed on it keeps them and ends or blocks. -/
theorem everyRequestEndsOrWaits : Obligations.EveryRequestEndsOrWaits := by
  intro w s hb
  obtain ⟨task, htask⟩ := requestTask_decodeRequest s.params w
  have hperform := State.endsOrBlocks_perform task (s.accept (requestOp w) (requestAddress w) (requestCommand w))
  rw [exec_decodeRequest htask, State.serve_idle hb]
  obtain ⟨ho, ha, hc, hend⟩ := hperform
  refine ⟨_, rfl, ho, ha, hc, hend.imp_right ?_⟩
  rintro ⟨hbusy, hwait, hstuck, hstatus⟩
  rcases State.perform_ended_or_parse task (s.accept _ _ _) with hnone | ⟨p, rfl⟩
  · exact absurd hnone hwait
  · exact ⟨hbusy, hwait, hstuck, hstatus, parserRequest_isSome_of_requestTask htask s.params⟩

/-! ## Settled engines -/

/-- A settled engine's read goes on with what arrives until it is settled again. -/
theorem State.settled_deliver {s : State} (h : s.settled = true) (items : List RxItem) :
    (s.deliver items).settled = true := by
  rcases State.settled_iff.1 h with hw | ⟨p, hw, -⟩ | ⟨p, e, hw, -⟩
  · rw [State.deliver_none hw]
    exact State.settled_iff.2 (.inl hw)
  · rw [State.deliver_read hw]
    exact (State.endsOrBlocks_continueRead p _).settled
  · rw [State.deliver_drain hw]
    exact (State.endsOrBlocks_continueDrain e p _).settled

theorem State.settled_move {s : State} (h : s.settled = true) {i : Input} (hi : i.paced = false) :
    (s.move i).settled = true := by
  cases i with
  | request w =>
    cases hb : s.busy with
    | true => rwa [State.move_request_busy hb]
    | false =>
      obtain ⟨t, ht⟩ := requestTask_decodeRequest s.params w
      rw [State.move_request_idle hb, goOn_enter hb ht]
      exact (State.endsOrBlocks_perform t _).settled
  | message m =>
    cases hb : s.busy with
    | true => rwa [State.move_message_busy hb]
    | false =>
      rw [State.move_message_idle hb]
      exact h
  | reset => rfl
  | arrive items => exact State.settled_deliver h items
  | enter w => cases hi
  | advance => cases hi
  | queue items => cases hi

/-- Settles O56: with no input left a settled engine that is not stuck is idle and stays so. -/
theorem unpacedMovesSettleTheEngine : Obligations.UnpacedMovesSettleTheEngine := by
  intro s t hs hpaced hstep
  rcases step_next_cases hstep with ⟨-, -, rfl⟩ | ⟨i, rest, hi, rfl⟩
  · rwa [State.goOn_settled hs]
  · exact State.settled_move (s := { s with inputs := rest }) hs (hpaced i rest hi)

end Sys2Proof.Machine
end

section
/-! PROOFS. The machine's invariant (O3, O4): the legal values of the fields hold everywhere, and each point an operation
can stand at has its own facts, which the move that leads there establishes (10_state.md R22, R25, R26;
42_frame_parser.md R150; 60_exceptions.md R213). -/

namespace Sys2Proof.Machine

/-! ## The invariant taken apart -/

/-- The invariant's clauses that do not speak of the point where the engine stands. -/
structure LegalFields (params : Params) (txBuf rxBuf : Memory) (status : BitVec 3) (triple : Triple) : Prop where
  params : params.wf = true
  txCanonical : txBuf.wf = true
  txWithin : txBuf.within txSize = true
  rxCanonical : rxBuf.wf = true
  rxWithin : rxBuf.within rxSize = true
  statusLegal : status ≠ 7#3
  oneChannel : triple.atMostOneChannel = true

/-- The same of a state: by definition it is about these five fields only, so an update of any other keeps it. -/
def State.Legal (s : State) : Prop := LegalFields s.params s.txBuf s.rxBuf s.status s.triple

/-- A parser operation under way, from its first read on: the registers name it and hold its failure value. -/
structure State.Runs (p : Parser) (s : State) : Prop where
  legal : s.Legal
  busy : s.busy = true
  names : s.namesParser p = true
  failure : s.holdsFailure p = true

theorem State.Inv.legal {s : State} (h : s.Inv) : s.Legal :=
  ⟨h.params, h.txCanonical, h.txWithin, h.rxCanonical, h.rxWithin, h.statusLegal, h.oneChannel⟩

/-- An update of what is outside the block keeps the invariant. -/
theorem State.Inv.outside {s : State} (h : s.Inv) (inputs : List Input) (rx : List RxItem) :
    { s with inputs := inputs, rx := rx }.Inv :=
  ⟨h.params, h.txCanonical, h.txWithin, h.rxCanonical, h.rxWithin, h.statusLegal,
    h.busyWaits, h.waitSound, h.oneChannel⟩

theorem State.Legal.inv_of_idle {s : State} (h : s.Legal) (hb : s.busy = false) (hw : s.wait = .none) : s.Inv := by
  obtain ⟨hp, ht, ht', hr, hr', hs, hc⟩ := h
  exact ⟨hp, ht, ht', hr, hr', hs, by simp [hb, hw], by simp [State.waitSound, hw], hc⟩

theorem State.Legal.inv_of_busy {s : State} (h : s.Legal) (hb : s.busy = true) (hw : s.wait ≠ .none)
    (hs : s.waitSound = true) : s.Inv := by
  obtain ⟨hp, ht, ht', hr, hr', hst, hc⟩ := h
  exact ⟨hp, ht, ht', hr, hr', hst, by simp [hb, hw], hs, hc⟩

/-! ## The points of a parser operation -/

section
variable {p : Parser} {e : Cause} {s : State}

theorem State.Runs.inv_of_read (h : s.Runs p) (hw : s.wait = .read p) (hr : s.rxBuf = Memory.cleared) : s.Inv :=
  h.legal.inv_of_busy h.busy (by simp [hw]) (by simp [State.waitSound, hw, h.names, h.failure, hr])

theorem State.Runs.inv_of_rejected (h : s.Runs p) (hw : s.wait = .rejected p e) (hv : s.verdict p = some e) : s.Inv :=
  h.legal.inv_of_busy h.busy (by simp [hw]) (by simp [State.waitSound, hw, h.names, h.failure, hv])

theorem State.Runs.inv_of_drain (h : s.Runs p) (hw : s.wait = .drain p e) (hv : s.verdict p = some e) : s.Inv :=
  h.legal.inv_of_busy h.busy (by simp [hw]) (by simp [State.waitSound, hw, h.names, h.failure, hv])

theorem State.Inv.busy_of_wait (h : s.Inv) {w : Wait} (hw : s.wait = w) (hn : w ≠ .none) : s.busy = true :=
  h.busyWaits.2 (by rwa [hw])

theorem State.Inv.wait_of_idle (h : s.Inv) (hb : s.busy = false) : s.wait = .none := by
  by_contra hw
  exact absurd (h.busyWaits.2 hw) (by simp [hb])

theorem State.Inv.task_of_accepted (h : s.Inv) {t : Task} (hw : s.wait = .accepted t) :
    requestTask (decodeFields s.params s.op s.addr s.cmd) = some t := by
  simpa [State.waitSound, hw] using h.waitSound

theorem State.Inv.runs_of_read (h : s.Inv) (hw : s.wait = .read p) : s.Runs p ∧ s.rxBuf = Memory.cleared := by
  have hs := h.waitSound
  simp only [State.waitSound, hw, Bool.and_eq_true, beq_iff_eq] at hs
  obtain ⟨⟨hn, hf⟩, hr⟩ := hs
  exact ⟨⟨h.legal, h.busy_of_wait hw nofun, hn, hf⟩, hr⟩

theorem State.Inv.runs_of_rejected (h : s.Inv) (hw : s.wait = .rejected p e) : s.Runs p ∧ s.verdict p = some e := by
  have hs := h.waitSound
  simp only [State.waitSound, hw, Bool.and_eq_true, beq_iff_eq] at hs
  obtain ⟨⟨hn, hf⟩, hv⟩ := hs
  exact ⟨⟨h.legal, h.busy_of_wait hw nofun, hn, hf⟩, hv⟩

theorem State.Inv.runs_of_drain (h : s.Inv) (hw : s.wait = .drain p e) : s.Runs p ∧ s.verdict p = some e := by
  have hs := h.waitSound
  simp only [State.waitSound, hw, Bool.and_eq_true, beq_iff_eq] at hs
  obtain ⟨⟨hn, hf⟩, hv⟩ := hs
  exact ⟨⟨h.legal, h.busy_of_wait hw nofun, hn, hf⟩, hv⟩

/-! ## The ends of an operation -/

theorem Triple.atMostOneChannel_sentinel : Triple.sentinel.atMostOneChannel = true := rfl

/-- One channel written over an all-sentinel triple is the only one with values (R157). -/
theorem Triple.atMostOneChannel_set (ch : Channel) (ph : Phases) :
    (Triple.sentinel.set ch ph).atMostOneChannel = true := by
  cases ch <;> simp [Triple.set, Triple.atMostOneChannel, Triple.sentinel]

theorem Cause.code_ne_reserved (e : Cause) : e.code ≠ 7#3 := by cases e <;> decide

theorem State.Legal.endWith (h : s.Legal) {code : BitVec 3} (hc : code ≠ 7#3) : (s.endWith code).Legal := by
  obtain ⟨hp, ht, ht', hr, hr', -, ho⟩ := h
  exact ⟨hp, ht, ht', hr, hr', hc, ho⟩

/-- A failure value touches the triple only by clearing it. -/
theorem State.Legal.failureValue (h : s.Legal) (o : Operation) : (s.failureValue o).Legal := by
  obtain ⟨hp, ht, ht', hr, hr', hs, hc⟩ := h
  rcases o with _ | (_ | ch | _) | _ | _
  case parser.rdval => exact ⟨hp, ht, ht', hr, hr', hs, Triple.atMostOneChannel_sentinel⟩
  case illegalOperand => exact ⟨hp, ht, ht', hr, hr', hs, Triple.atMostOneChannel_sentinel⟩
  all_goals exact ⟨hp, ht, ht', hr, hr', hs, hc⟩

theorem State.Legal.inv_recover (h : s.Legal) (e : Cause) (o : Operation) : (s.recover e o).Inv :=
  ((h.failureValue o).endWith e.code_ne_reserved).inv_of_idle rfl rfl

/-- The success value goes into a register that holds the failure value, so the other channels stay sentinel. -/
theorem State.Runs.legal_successValue (h : s.Runs p) : (s.successValue p).Legal := by
  obtain ⟨⟨hp, ht, ht', hr, hr', hs, hc⟩, -, -, hf⟩ := h
  rcases p with _ | ch | _
  · exact ⟨hp, ht, ht', hr, hr', hs, hc⟩
  · have hsentinel : s.triple = Triple.sentinel := by simpa [State.holdsFailure] using hf
    refine ⟨hp, ht, ht', hr, hr', hs, ?_⟩
    simp only [State.successValue, hsentinel]
    exact Triple.atMostOneChannel_set ch _
  · exact ⟨hp, ht, ht', hr, hr', hs, hc⟩

theorem State.Runs.inv_succeed (h : s.Runs p) : (s.succeed p).Inv :=
  (h.legal_successValue.endWith (by decide)).inv_of_idle rfl rfl

/-! ## The reads of a parser operation -/

/-- A drain keeps RXBUF and ACC, so the verdict stands while it is not answered. -/
theorem State.Runs.inv_continueDrain (h : s.Runs p) (hv : s.verdict p = some e) : (s.continueDrain e p).Inv := by
  obtain ⟨hl, hb, hn, hf⟩ := h
  rcases State.continueDrain_cases e p s with ⟨-, hd⟩ | ⟨rest, -, hd⟩ <;> rw [hd]
  · exact State.Runs.inv_of_drain (s := { s with wait := .drain p e }) ⟨hl, hb, hn, hf⟩ rfl hv
  · exact State.Legal.inv_recover (s := { s with rx := rest }) hl e (.parser p)

theorem State.Runs.callRx (h : s.Runs p) (n : Nat) : (s.callRx n).Runs p := by
  obtain ⟨hl, hb, hn, hf⟩ := h
  exact ⟨hl, hb, hn, hf⟩

theorem State.Runs.inv_conclude (h : s.Runs p) : (s.conclude p).Inv := by
  rcases State.conclude_eq p s with ⟨e, hv, hc⟩ | ⟨-, hc⟩ <;> rw [hc]
  · exact (h.callRx p.drainLen).inv_continueDrain hv
  · exact h.inv_succeed

theorem State.Runs.inv_judge (h : s.Runs p) : (s.judge p).Inv := by
  rcases State.judge_eq p s with ⟨e, hv, hj⟩ | ⟨-, hj⟩ <;> rw [hj]
  · obtain ⟨hl, hb, hn, hf⟩ := h
    exact State.Runs.inv_of_rejected (s := { s with wait := .rejected p e }) ⟨hl, hb, hn, hf⟩ rfl hv
  · exact h.inv_succeed

theorem Parser.readLen_le_rxSize (p : Parser) : p.readLen ≤ rxSize := by
  rcases p with _ | (_ | _ | _) | _ <;> decide

/-- The bytes of an answered read fit into a cleared RXBUF (R50). -/
theorem State.Runs.receive (h : s.Runs p) (hr : s.rxBuf = Memory.cleared) {bytes : List Byte} {rest : List RxItem}
    (hl : bytes.length = p.readLen) : ({ s with rx := rest }.receive p.readLen bytes).Runs p := by
  obtain ⟨⟨hp, ht, ht', -, -, hs, hc⟩, hb, hn, hf⟩ := h
  have hfits : 0 + bytes.length ≤ rxSize := by simpa [hl] using p.readLen_le_rxSize
  rw [State.receive_eq (s := { s with rx := rest }) hr p.readLen bytes hl]
  exact ⟨⟨hp, ht, ht', Memory.wf_store Memory.wf_cleared 0 bytes, Memory.within_store rfl 0 bytes hfits, hs, hc⟩,
    hb, hn, hf⟩

theorem State.Runs.inv_continueRead (h : s.Runs p) (hr : s.rxBuf = Memory.cleared) : (s.continueRead p).Inv := by
  rcases State.continueRead_cases p s with ⟨-, hc⟩ | ⟨rest, -, hc⟩ | ⟨bytes, rest, hg, hc⟩ <;> rw [hc]
  · obtain ⟨hl, hb, hn, hf⟩ := h
    exact State.Runs.inv_of_read (s := { s with wait := .read p }) ⟨hl, hb, hn, hf⟩ rfl hr
  · exact State.Legal.inv_recover (s := { s with rx := rest }) h.legal .transportFailure (.parser p)
  · exact (h.receive hr (rxTake_got hg).1).inv_conclude

theorem State.Runs.inv_readMove (h : s.Runs p) (hs : s.Inv) (hr : s.rxBuf = Memory.cleared) : (s.readMove p).Inv := by
  rcases State.readMove_cases p s with ⟨-, hm⟩ | ⟨rest, -, hm⟩ | ⟨bytes, rest, hg, hm⟩ <;> rw [hm]
  · exact hs
  · exact State.Legal.inv_recover (s := { s with rx := rest }) h.legal .transportFailure (.parser p)
  · exact (h.receive hr (rxTake_got hg).1).inv_judge

/-! ## The task of an accepted request -/

/-- An accepted task that is a parser's is the one the operand registers name. -/
theorem State.namesParser_of_requestTask (h : requestTask (decodeFields s.params s.op s.addr s.cmd) = some (.parse p)) :
    s.namesParser p = true := by
  unfold decodeFields at h
  (repeat' split at h) <;> cases h <;> simp_all [State.namesParser, Params.command]

/-- The start of a parser operation writes its failure value and clears RXBUF (R150). -/
theorem State.Legal.runs_startParser (h : s.Legal) (hb : s.busy = true) (hn : s.namesParser p = true) :
    (s.startParser p).Runs p := by
  obtain ⟨hp, ht, ht', -, -, hs, hc⟩ := h
  rcases p with _ | ch | _
  · exact ⟨⟨hp, ht, ht', rfl, rfl, hs, hc⟩, hb, hn, rfl⟩
  · exact ⟨⟨hp, ht, ht', rfl, rfl, hs, Triple.atMostOneChannel_sentinel⟩, hb, hn, rfl⟩
  · exact ⟨⟨hp, ht, ht', rfl, rfl, hs, hc⟩, hb, hn, rfl⟩

theorem writeCode_ne_reserved (r : TxAnswer) : (if r = .ok then stOk else stTransportFailure) ≠ 7#3 := by
  cases r <;> decide

theorem Form.len_le_txSize (f : Form) : f.len ≤ txSize := by cases f <;> decide

/-- A request frame fits into TXBUF (R50). -/
theorem State.Legal.inv_perform_build (h : s.Legal) (f : Form) : (s.perform (.build f)).Inv := by
  obtain ⟨hp, -, -, hr, hr', -, hc⟩ := h
  have hfits : 0 + (frame (f.header s.addr s.cmd)).length ≤ txSize := by
    simpa [← f.length_header] using f.len_le_txSize
  have hlegal : (s.perform (.build f)).Legal := by
    rw [State.perform_build]
    exact ⟨hp, Memory.wf_store Memory.wf_cleared 0 _, Memory.within_store rfl 0 _ hfits, hr, hr',
      writeCode_ne_reserved s.nextTxAnswer, hc⟩
  exact hlegal.inv_of_idle (by rw [State.perform_build]) (by rw [State.perform_build])

theorem State.Legal.inv_perform (h : s.Legal) (hb : s.busy = true) {t : Task}
    (ht : requestTask (decodeFields s.params s.op s.addr s.cmd) = some t) : (s.perform t).Inv := by
  cases t with
  | build f => exact h.inv_perform_build f
  | parse p =>
    exact (h.runs_startParser hb (State.namesParser_of_requestTask ht)).inv_continueRead (s.startParser_rxBuf p)
  | illegalOperation => exact h.inv_recover .illegalOperation .illegalOperation
  | illegalOperand => exact h.inv_recover .illegalOperand .illegalOperand

theorem State.Legal.inv_firstMove (h : s.Legal) (hb : s.busy = true) {t : Task}
    (ht : requestTask (decodeFields s.params s.op s.addr s.cmd) = some t) : (s.firstMove t).Inv := by
  cases t with
  | parse p =>
    obtain ⟨hl, hb', hn, hf⟩ := h.runs_startParser hb (State.namesParser_of_requestTask ht)
    exact State.Runs.inv_of_read (s := s.firstMove (.parse p)) ⟨hl, hb', hn, hf⟩ rfl (s.startParser_rxBuf p)
  | build f => exact h.inv_perform hb ht
  | illegalOperation => exact h.inv_perform hb ht
  | illegalOperand => exact h.inv_perform hb ht

/-! ## The moves -/

theorem State.Inv.enter (h : s.Inv) (w : RequestWord) : (s.enter w).Inv := by
  cases hb : s.busy with
  | true => rwa [State.enter_busy hb]
  | false =>
    obtain ⟨t, ht⟩ := requestTask_decodeRequest s.params w
    rw [State.enter_idle hb ht]
    exact State.Legal.inv_of_busy h.legal rfl nofun (beq_iff_eq.2 ht)

theorem State.Inv.goOn (h : s.Inv) : s.goOn.Inv := by
  cases hw : s.wait with
  | none => rwa [State.goOn_none hw]
  | accepted t =>
    rw [State.goOn_accepted hw]
    exact h.legal.inv_perform (h.busy_of_wait hw nofun) (h.task_of_accepted hw)
  | read p =>
    obtain ⟨hruns, hr⟩ := h.runs_of_read hw
    rw [State.goOn_read hw]
    exact hruns.inv_continueRead hr
  | rejected p e =>
    obtain ⟨hruns, hv⟩ := h.runs_of_rejected hw
    rw [State.goOn_rejected hw, State.raise_drains (State.verdict_drains hv)]
    exact (hruns.callRx p.drainLen).inv_continueDrain hv
  | drain p e =>
    obtain ⟨hruns, hv⟩ := h.runs_of_drain hw
    rw [State.goOn_drain hw]
    exact hruns.inv_continueDrain hv

theorem State.Inv.advance (h : s.Inv) : s.advance.Inv := by
  unfold State.advance
  cases hw : s.wait with
  | none => exact h
  | accepted t => exact h.legal.inv_firstMove (h.busy_of_wait hw nofun) (h.task_of_accepted hw)
  | read p =>
    obtain ⟨hruns, hr⟩ := h.runs_of_read hw
    exact hruns.inv_readMove h hr
  | rejected p e =>
    obtain ⟨⟨hl, hb, hn, hf⟩, hv⟩ := h.runs_of_rejected hw
    exact State.Runs.inv_of_drain (s := { s.callRx p.drainLen with wait := .drain p e }) ⟨hl, hb, hn, hf⟩ rfl hv
  | drain p e =>
    obtain ⟨hruns, hv⟩ := h.runs_of_drain hw
    exact hruns.inv_continueDrain hv

theorem State.Inv.resume (h : s.Inv) : s.resume.Inv := by
  unfold State.resume
  cases hw : s.wait with
  | none => exact h
  | accepted t => exact h
  | read p =>
    obtain ⟨hruns, hr⟩ := h.runs_of_read hw
    exact hruns.inv_continueRead hr
  | rejected p e => exact h
  | drain p e =>
    obtain ⟨hruns, hv⟩ := h.runs_of_drain hw
    exact hruns.inv_continueDrain hv

theorem stNone_ne_reserved : stNone ≠ 7#3 := by decide

/-- The reset values are legal under any parameters that are (R33). -/
theorem State.inv_resetBlock (h : s.params.wf = true) : s.resetBlock.Inv :=
  State.Legal.inv_of_idle ⟨h, rfl, rfl, rfl, rfl, stNone_ne_reserved, Triple.atMostOneChannel_sentinel⟩ rfl rfl

/-- A checksum message writes CRCOUT and ACC at an idle engine, where no verdict rests on ACC. -/
theorem State.Inv.message (h : s.Inv) (m : List Byte) : (s.move (.message m)).Inv := by
  cases hb : s.busy with
  | true => rwa [State.move_message_busy hb]
  | false =>
    rw [State.move_message_idle hb]
    exact State.Legal.inv_of_idle (s := { s with crcOut := crc16 m, acc := crc16 m }) h.legal hb (h.wait_of_idle hb)

theorem State.Inv.move (h : s.Inv) (i : Input) : (s.move i).Inv := by
  cases i with
  | request w =>
    cases hb : s.busy with
    | true => rwa [State.move_request_busy hb]
    | false =>
      rw [State.move_request_idle hb]
      exact (h.enter w).goOn
  | message m => exact h.message m
  | reset => exact State.inv_resetBlock h.params
  | arrive items => exact (h.outside s.inputs (s.rx ++ items)).resume
  | enter w => exact h.enter w
  | advance => exact h.advance
  | queue items => exact h.outside s.inputs (s.rx ++ items)
end

/-! ## The obligations -/

theorem State.Inv.of_step {s t : State} (hs : s.Inv) (h : step s = .next t) : t.Inv := by
  rcases step_next_cases h with ⟨-, -, rfl⟩ | ⟨i, rest, -, rfl⟩
  · exact hs.goOn
  · exact (hs.outside rest s.rx).move i

/-- Settles O4: taking an input off the list and every move keep the invariant, and so does going on. -/
theorem everyStepKeepsTheInvariant : Obligations.EveryStepKeepsTheInvariant :=
  fun _ _ hs h => hs.of_step h

/-- Settles O3: the reset state is the block reset under the reference parameters. -/
theorem resetMeetsTheInvariant : Obligations.ResetMeetsTheInvariant :=
  State.inv_resetBlock (s := State.reset) (by decide)

/-- Settles O1: R33's values; a cleared buffer reads 0x00 at every index. -/
theorem resetLeavesTheListedValues : Obligations.ResetLeavesTheListedValues := by
  refine ⟨rfl, rfl, rfl, rfl, rfl, rfl, ?_, rfl, rfl, rfl, Memory.read_cleared, Memory.read_cleared⟩
  intro ph hph
  have hsentinel : ph = Phases.sentinel := by simpa [State.reset, Triple.sentinel] using hph
  rw [hsentinel]
  exact ⟨rfl, rfl, rfl⟩

end Sys2Proof.Machine
end

section
/-! PROOFS. Old contents of ACC, TXBUF and RXBUF never matter (O50, O57): every operation takes two states that differ
only there to two that do. What is read of the three was written by the operation itself: TXBUF is built anew, RXBUF is
clear at the first read, ACC is the checksum of what stands there (10_state.md R29, R30; 42_frame_parser.md R150). -/

namespace Sys2Proof.Machine

/-! ## The relation -/

theorem State.sameButScratch_iff {s t : State} :
    s.sameButScratch t ↔ ∃ a tx rx, t = { s with acc := a, txBuf := tx, rxBuf := rx } := by
  constructor
  · intro h
    exact ⟨t.acc, t.txBuf, t.rxBuf, h.symm⟩
  · rintro ⟨a, tx, rx, rfl⟩
    rfl

section
variable {s t : State}

theorem State.sameButScratch.hostView (h : s.sameButScratch t) : s.hostView = t.hostView := by
  obtain ⟨a, tx, rx, rfl⟩ := State.sameButScratch_iff.1 h
  rfl

theorem State.sameButScratch.stuck (h : s.sameButScratch t) : s.stuck = t.stuck := by
  obtain ⟨a, tx, rx, rfl⟩ := State.sameButScratch_iff.1 h
  rfl

theorem State.sameButScratch.busy (h : s.sameButScratch t) : s.busy = t.busy := congrArg HostView.busy h.hostView

theorem State.sameButScratch.wait (h : s.sameButScratch t) : s.wait = t.wait := by
  obtain ⟨a, tx, rx, rfl⟩ := State.sameButScratch_iff.1 h
  rfl

theorem State.sameButScratch.params (h : s.sameButScratch t) : s.params = t.params := by
  obtain ⟨a, tx, rx, rfl⟩ := State.sameButScratch_iff.1 h
  rfl

theorem State.sameButScratch.inputs (h : s.sameButScratch t) : s.inputs = t.inputs := by
  obtain ⟨a, tx, rx, rfl⟩ := State.sameButScratch_iff.1 h
  rfl

theorem State.sameButScratch.rx (h : s.sameButScratch t) : s.rx = t.rx := by
  obtain ⟨a, tx, rx, rfl⟩ := State.sameButScratch_iff.1 h
  rfl

/-! ## The same update on both sides -/

theorem State.sameButScratch.setWait (h : s.sameButScratch t) (w : Wait) :
    { s with wait := w }.sameButScratch { t with wait := w } := by
  obtain ⟨a, tx, rx, rfl⟩ := State.sameButScratch_iff.1 h
  rfl

theorem State.sameButScratch.setInputs (h : s.sameButScratch t) (inputs : List Input) :
    { s with inputs := inputs }.sameButScratch { t with inputs := inputs } := by
  obtain ⟨a, tx, rx, rfl⟩ := State.sameButScratch_iff.1 h
  rfl

theorem State.sameButScratch.setRx (h : s.sameButScratch t) (items : List RxItem) :
    { s with rx := items }.sameButScratch { t with rx := items } := by
  obtain ⟨a, tx, rx, rfl⟩ := State.sameButScratch_iff.1 h
  rfl

theorem State.sameButScratch.accept (h : s.sameButScratch t) (op : BitVec 3) (a c : Byte) :
    (s.accept op a c).sameButScratch (t.accept op a c) := by
  obtain ⟨acc, tx, rx, rfl⟩ := State.sameButScratch_iff.1 h
  rfl

theorem State.sameButScratch.callRx (h : s.sameButScratch t) (n : Nat) :
    (s.callRx n).sameButScratch (t.callRx n) := by
  obtain ⟨a, tx, rx, rfl⟩ := State.sameButScratch_iff.1 h
  rfl

theorem State.sameButScratch.resetBlock (h : s.sameButScratch t) : s.resetBlock.sameButScratch t.resetBlock := by
  obtain ⟨a, tx, rx, rfl⟩ := State.sameButScratch_iff.1 h
  rfl

theorem State.sameButScratch.recover (h : s.sameButScratch t) (e : Cause) (o : Operation) :
    (s.recover e o).sameButScratch (t.recover e o) := by
  obtain ⟨a, tx, rx, rfl⟩ := State.sameButScratch_iff.1 h
  rcases o with _ | (_ | ch | _) | _ | _ <;> rfl

theorem State.sameButScratch.startParser (h : s.sameButScratch t) (p : Parser) :
    (s.startParser p).sameButScratch (t.startParser p) := by
  obtain ⟨a, tx, rx, rfl⟩ := State.sameButScratch_iff.1 h
  rcases p with _ | ch | _ <;> rfl

/-! ## The operations that look at a buffer -/

theorem State.sameButScratch.continueDrain (h : s.sameButScratch t) (e : Cause) (p : Parser) :
    (s.continueDrain e p).sameButScratch (t.continueDrain e p) := by
  have hrx : rxTake p.drainLen t.rx = rxTake p.drainLen s.rx := by rw [h.rx]
  unfold State.continueDrain
  rw [hrx]
  cases rxTake p.drainLen s.rx with
  | silent => exact h.setWait (.drain p e)
  | failed rest => exact (h.setRx rest).recover e (.parser p)
  | got ds rest => exact (h.setRx rest).recover e (.parser p)

theorem State.sameButScratch.raise (h : s.sameButScratch t) (e : Cause) (p : Parser) :
    (s.raise e (.parser p)).sameButScratch (t.raise e (.parser p)) := by
  cases he : e.drains with
  | true =>
    rw [State.raise_drains he, State.raise_drains he]
    exact (h.callRx p.drainLen).continueDrain e p
  | false =>
    rw [State.raise_without_drain he, State.raise_without_drain he]
    exact h.recover e (.parser p)

/-- The checks look at RXBUF and ACC only. -/
theorem State.verdict_congr (p : Parser) (hr : s.rxBuf = t.rxBuf) (ha : s.acc = t.acc) :
    s.verdict p = t.verdict p := by
  simp only [State.verdict, hr, ha]

/-- A value is decoded from RXBUF alone. -/
theorem State.sameButScratch.succeed (h : s.sameButScratch t) (hr : s.rxBuf = t.rxBuf) (p : Parser) :
    (s.succeed p).sameButScratch (t.succeed p) := by
  obtain ⟨a, tx, rx, rfl⟩ := State.sameButScratch_iff.1 h
  obtain rfl : s.rxBuf = rx := hr
  rcases p with _ | ch | _ <;> rfl

theorem State.sameButScratch.conclude (h : s.sameButScratch t) (hr : s.rxBuf = t.rxBuf) (ha : s.acc = t.acc)
    (p : Parser) : (s.conclude p).sameButScratch (t.conclude p) := by
  unfold State.conclude
  rw [← State.verdict_congr p hr ha]
  cases s.verdict p with
  | some e => exact h.raise e p
  | none => exact h.succeed hr p

theorem State.sameButScratch.judge (h : s.sameButScratch t) (hr : s.rxBuf = t.rxBuf) (ha : s.acc = t.acc)
    (p : Parser) : (s.judge p).sameButScratch (t.judge p) := by
  unfold State.judge
  rw [← State.verdict_congr p hr ha]
  cases s.verdict p with
  | some e => exact h.setWait (.rejected p e)
  | none => exact h.succeed hr p

/-- Bytes received over equal buffers leave equal buffers and equal checksums. -/
theorem State.sameButScratch.receive (h : s.sameButScratch t) (hr : s.rxBuf = t.rxBuf) (n : Nat) (bytes : List Byte) :
    (s.receive n bytes).sameButScratch (t.receive n bytes) ∧
      (s.receive n bytes).rxBuf = (t.receive n bytes).rxBuf ∧ (s.receive n bytes).acc = (t.receive n bytes).acc := by
  obtain ⟨a, tx, rx, rfl⟩ := State.sameButScratch_iff.1 h
  obtain rfl : s.rxBuf = rx := hr
  exact ⟨rfl, rfl, rfl⟩

theorem State.sameButScratch.continueRead (h : s.sameButScratch t) (hr : s.rxBuf = t.rxBuf) (p : Parser) :
    (s.continueRead p).sameButScratch (t.continueRead p) := by
  have hrx : rxTake p.readLen t.rx = rxTake p.readLen s.rx := by rw [h.rx]
  unfold State.continueRead
  rw [hrx]
  cases rxTake p.readLen s.rx with
  | silent => exact h.setWait (.read p)
  | failed rest => exact (h.setRx rest).raise .transportFailure p
  | got bytes rest =>
    obtain ⟨h', hr', ha'⟩ := (h.setRx rest).receive hr p.readLen bytes
    exact h'.conclude hr' ha' p

theorem State.sameButScratch.readMove (h : s.sameButScratch t) (hr : s.rxBuf = t.rxBuf) (p : Parser) :
    (s.readMove p).sameButScratch (t.readMove p) := by
  have hrx : rxTake p.readLen t.rx = rxTake p.readLen s.rx := by rw [h.rx]
  unfold State.readMove
  rw [hrx]
  cases rxTake p.readLen s.rx with
  | silent => exact h
  | failed rest => exact (h.setRx rest).raise .transportFailure p
  | got bytes rest =>
    obtain ⟨h', hr', ha'⟩ := (h.setRx rest).receive hr p.readLen bytes
    exact h'.judge hr' ha' p

theorem State.sameButScratch.perform (h : s.sameButScratch t) (task : Task) :
    (s.perform task).sameButScratch (t.perform task) := by
  cases task with
  | build f =>
    obtain ⟨a, tx, rx, rfl⟩ := State.sameButScratch_iff.1 h
    rw [State.perform_build, State.perform_build]
    rfl
  | parse p =>
    exact (h.startParser p).continueRead ((s.startParser_rxBuf p).trans (t.startParser_rxBuf p).symm) p
  | illegalOperation => exact h.recover .illegalOperation .illegalOperation
  | illegalOperand => exact h.recover .illegalOperand .illegalOperand

theorem State.sameButScratch.firstMove (h : s.sameButScratch t) (task : Task) :
    (s.firstMove task).sameButScratch (t.firstMove task) := by
  cases task with
  | parse p => exact (h.startParser p).setWait (.read p)
  | build f => exact h.perform (.build f)
  | illegalOperation => exact h.perform .illegalOperation
  | illegalOperand => exact h.perform .illegalOperand

theorem State.sameButScratch.enter (h : s.sameButScratch t) (w : RequestWord) :
    (s.enter w).sameButScratch (t.enter w) := by
  cases hb : s.busy with
  | true => rwa [State.enter_busy hb, State.enter_busy (h.busy ▸ hb)]
  | false =>
    obtain ⟨task, htask⟩ := requestTask_decodeRequest s.params w
    rw [State.enter_idle hb htask, State.enter_idle (h.busy ▸ hb) (h.params ▸ htask)]
    exact (h.accept _ _ _).setWait (.accepted task)

theorem State.sameButScratch.message (h : s.sameButScratch t) (m : List Byte) :
    (s.move (.message m)).sameButScratch (t.move (.message m)) := by
  cases hb : s.busy with
  | true => rwa [State.move_message_busy hb, State.move_message_busy (h.busy ▸ hb)]
  | false =>
    rw [State.move_message_idle hb, State.move_message_idle (h.busy ▸ hb)]
    obtain ⟨a, tx, rx, rfl⟩ := State.sameButScratch_iff.1 h
    rfl
end

/-! ## Idle engines (O50) -/

theorem isRequest_eq (i : Instr) : isRequest i = (requestTask i).isSome := by cases i <;> rfl

/-- A response frame is its bytes arriving (log 10). -/
theorem exec_response {i : Instr} (h : isResponse i = true) : ∃ items, ∀ s, exec i s = .next (s.deliver items) := by
  cases i <;> cases h <;> exact ⟨_, fun _ => rfl⟩

/-- Two idle engines that differ only in scratch serve a request with the same operands. -/
theorem State.sameButScratch.exec_request {s t : State} (h : s.sameButScratch t) (hb : s.busy = false) {i : Instr}
    {task : Task} (hi : requestTask i = some task) :
    ∃ s' t', exec i s = .next s' ∧ exec i t = .next t' ∧ s'.sameButScratch t' := by
  obtain ⟨w, hw, hs⟩ := Machine.exec_request hi s
  obtain ⟨w', hw', ht⟩ := Machine.exec_request hi t
  rw [← h.params, hw] at hw'
  cases hw'
  refine ⟨_, _, hs, ht, ?_⟩
  rw [State.serve_idle hb, State.serve_idle (h.busy ▸ hb)]
  exact (h.accept _ _ _).perform task

/-- Settles O50: a request clears or rewrites what it reads, a message and an arriving frame read none of it. -/
theorem oldScratchNeverMatters : Obligations.OldScratchNeverMatters := by
  intro i s t h hb hw hi
  suffices hexec : ∃ s' t', exec i s = .next s' ∧ exec i t = .next t' ∧ s'.sameButScratch t' by
    obtain ⟨s', t', hs, ht, h'⟩ := hexec
    exact ⟨s', t', hs, ht, h', h'.hostView⟩
  rcases hi with hi | hi | ⟨m, rfl⟩
  · rw [isRequest_eq] at hi
    obtain ⟨task, htask⟩ := Option.isSome_iff_exists.1 hi
    exact h.exec_request hb htask
  · obtain ⟨items, hexec⟩ := exec_response hi
    refine ⟨_, _, hexec s, hexec t, ?_⟩
    rw [State.deliver_none hw, State.deliver_none (h.wait ▸ hw), ← h.rx]
    exact h.setRx (s.rx ++ items)
  · exact ⟨_, _, rfl, rfl, h.message m⟩

/-! ## Every step (O57) -/

section
variable {s t : State}

/-- RXBUF is clear at the first read, so two states of the invariant have the same one there. -/
theorem State.Inv.rxBuf_eq_of_read (hs : s.Inv) (ht : t.Inv) (h : s.sameButScratch t) {p : Parser}
    (hw : s.wait = .read p) : s.rxBuf = t.rxBuf :=
  (hs.runs_of_read hw).2.trans (ht.runs_of_read (h.wait ▸ hw)).2.symm

theorem State.sameButScratch.goOn (h : s.sameButScratch t) (hs : s.Inv) (ht : t.Inv) :
    s.goOn.sameButScratch t.goOn := by
  unfold State.goOn
  rw [← h.wait]
  cases hw : s.wait with
  | none => exact h
  | accepted task => exact h.perform task
  | read p => exact h.continueRead (hs.rxBuf_eq_of_read ht h hw) p
  | rejected p e => exact h.raise e p
  | drain p e => exact h.continueDrain e p

theorem State.sameButScratch.advance (h : s.sameButScratch t) (hs : s.Inv) (ht : t.Inv) :
    s.advance.sameButScratch t.advance := by
  unfold State.advance
  rw [← h.wait]
  cases hw : s.wait with
  | none => exact h
  | accepted task => exact h.firstMove task
  | read p => exact h.readMove (hs.rxBuf_eq_of_read ht h hw) p
  | rejected p e => exact (h.callRx p.drainLen).setWait (.drain p e)
  | drain p e => exact h.continueDrain e p

theorem State.sameButScratch.resume (h : s.sameButScratch t) (hs : s.Inv) (ht : t.Inv) :
    s.resume.sameButScratch t.resume := by
  unfold State.resume
  rw [← h.wait]
  cases hw : s.wait with
  | none => exact h
  | accepted task => exact h
  | read p => exact h.continueRead (hs.rxBuf_eq_of_read ht h hw) p
  | rejected p e => exact h
  | drain p e => exact h.continueDrain e p

theorem State.sameButScratch.move (h : s.sameButScratch t) (hs : s.Inv) (ht : t.Inv) (i : Input) :
    (s.move i).sameButScratch (t.move i) := by
  cases i with
  | request w =>
    cases hb : s.busy with
    | true => rwa [State.move_request_busy hb, State.move_request_busy (h.busy ▸ hb)]
    | false =>
      rw [State.move_request_idle hb, State.move_request_idle (h.busy ▸ hb)]
      exact (h.enter w).goOn (hs.enter w) (ht.enter w)
  | message m => exact h.message m
  | reset => exact h.resetBlock
  | arrive items =>
    unfold State.move State.deliver
    rw [← h.rx]
    exact (h.setRx _).resume (hs.outside s.inputs _) (ht.outside t.inputs _)
  | enter w => exact h.enter w
  | advance => exact h.advance hs ht
  | queue items =>
    unfold State.move
    rw [← h.rx]
    exact h.setRx (s.rx ++ items)
end

/-- Settles O57: both states serve the same input or both go on, and each next state meets the invariant by its own
step; stuck depends on no scratch. -/
theorem oldScratchNeverMattersOverSteps : Obligations.OldScratchNeverMattersOverSteps := by
  intro s t hs ht h
  have next {s' t' : State} (hs' : step s = .next s') (ht' : step t = .next t') (h' : s'.sameButScratch t') :
      ∃ s' t', step s = .next s' ∧ step t = .next t' ∧ s'.sameButScratch t' ∧ s'.hostView = t'.hostView ∧
        s'.Inv ∧ t'.Inv :=
    ⟨s', t', hs', ht', h', h'.hostView, hs.of_step hs', ht.of_step ht'⟩
  cases hi : s.inputs with
  | nil =>
    have hi' : t.inputs = [] := h.inputs ▸ hi
    cases hstuck : s.stuck with
    | true => exact .inr ⟨step_nil_stuck hi hstuck, step_nil_stuck hi' (h.stuck ▸ hstuck)⟩
    | false => exact .inl (next (step_nil hi hstuck) (step_nil hi' (h.stuck ▸ hstuck)) (h.goOn hs ht))
  | cons i rest =>
    have hmove := (h.setInputs rest).move (hs.outside rest s.rx) (ht.outside rest t.rx) i
    exact .inl (next (step_cons hi) (step_cons (h.inputs ▸ hi)) hmove)

end Sys2Proof.Machine
end

section
/-! PROOFS. Each result register has its own writers (O47): what a task may write, what an arrival may write, and that no
other instruction writes a result (10_state.md R24, R26, R27, R28). -/

namespace Sys2Proof.Machine

/-- A task that ran from `s` to `u` wrote no result register but its own, and never CRCOUT. -/
structure TaskWritesOnly (t : Task) (s u : State) : Prop where
  crcOut : u.crcOut = s.crcOut
  ready : t ≠ .parse .chkrdy → u.ready = s.ready
  triple : (∀ ch, t ≠ .parse (.rdval ch)) → t ≠ .illegalOperand → u.triple = s.triple
  energy : t ≠ .parse .rdenergy → u.energy = s.energy

theorem State.perform_taskWritesOnly (t : Task) (s : State) : TaskWritesOnly t s (s.perform t) := by
  cases t with
  | build f =>
    rw [State.perform_build]
    exact ⟨rfl, fun _ => rfl, fun _ _ => rfl, fun _ => rfl⟩
  | parse p =>
    obtain ⟨-, hcrc, -, hready, htriple, henergy⟩ := State.runParser_writesOnly p s
    exact ⟨hcrc, fun h => hready (mt (congrArg Task.parse) h),
      fun h _ => htriple fun ch => mt (congrArg Task.parse) (h ch), fun h => henergy (mt (congrArg Task.parse) h)⟩
  | illegalOperation => exact ⟨rfl, fun _ => rfl, fun _ _ => rfl, fun _ => rfl⟩
  | illegalOperand => exact ⟨rfl, fun _ => rfl, fun _ h => absurd rfl h, fun _ => rfl⟩

theorem State.serve_taskWritesOnly (op : BitVec 3) (a c : Byte) (t : Task) (s : State) :
    TaskWritesOnly t s (s.serve op a c t) := by
  cases hb : s.busy with
  | true =>
    rw [State.serve_busy hb]
    exact ⟨rfl, fun _ => rfl, fun _ _ => rfl, fun _ => rfl⟩
  | false =>
    rw [State.serve_idle hb]
    obtain ⟨hcrc, hready, htriple, henergy⟩ := (s.accept op a c).perform_taskWritesOnly t
    exact ⟨hcrc, hready, htriple, henergy⟩

/-- An arrival writes what the blocked operation writes, or lengthens the stream. -/
theorem State.deliver_cases (items : List RxItem) (s : State) :
    (∃ p, (s.wait = .read p ∨ ∃ e, s.wait = .drain p e) ∧ WritesOnly p s (s.deliver items)) ∨
    s.deliver items = { s with rx := s.rx ++ items } := by
  cases hw : s.wait with
  | read p =>
    obtain ⟨hp, hcrc, hh, hready, htriple, henergy⟩ := State.continueRead_writesOnly p { s with rx := s.rx ++ items }
    rw [State.deliver_read hw]
    exact .inl ⟨p, .inl rfl, hp, hcrc, hh, hready, htriple, henergy⟩
  | drain p e =>
    obtain ⟨hp, hcrc, hh, hready, htriple, henergy⟩ := State.continueDrain_writesOnly e p { s with rx := s.rx ++ items }
    rw [State.deliver_drain hw]
    exact .inl ⟨p, .inr ⟨e, rfl⟩, hp, hcrc, hh, hready, htriple, henergy⟩
  | none => exact .inr (by simp only [State.deliver, State.resume, hw])
  | accepted t => exact .inr (by simp only [State.deliver, State.resume, hw])
  | rejected p e => exact .inr (by simp only [State.deliver, State.resume, hw])

/-- The four result registers are as they were. -/
structure SameResults (s t : State) : Prop where
  ready : t.ready = s.ready
  triple : t.triple = s.triple
  energy : t.energy = s.energy
  crcOut : t.crcOut = s.crcOut

/-- An instruction is a request, a response frame or a message, or its meaning writes no result register: the
micro-steps and the request frames write ACC, TXBUF and `decOut`. -/
theorem exec_kinds (i : Instr) :
    (∃ task, requestTask i = some task) ∨ isResponse i = true ∨ (∃ m, i = .crc16 m) ∨
    ∀ s t, exec i s = .next t → SameResults s t := by
  cases i
  case crc16 m => exact .inr (.inr (.inl ⟨m, rfl⟩))
  case fAck | fMeas12 | fMeas15 | fEnergy => exact .inr (.inl rfl)
  case crcInit | crcByte | crcStep | dec24 | dec24p | dec32 | fOpen | fSess | fReqInst | fReqEnrg =>
    refine .inr (.inr (.inr fun s t h => ?_))
    cases h
    exact ⟨rfl, rfl, rfl, rfl⟩
  all_goals exact .inl ⟨_, rfl⟩

/-! ## Which instructions ask for a task -/

section
variable {i : Instr}

theorem eq_chkrdy_of_requestTask (h : requestTask i = some (.parse .chkrdy)) : ∃ a c, i = .chkrdy a c := by
  cases i <;> cases h
  exact ⟨_, _, rfl⟩

theorem eq_rdval_of_requestTask {ch : Channel} (h : requestTask i = some (.parse (.rdval ch))) :
    ∃ a, i = .rdvalV a ∨ i = .rdvalI a ∨ i = .rdvalP a := by
  cases i <;> cases h
  · exact ⟨_, .inl rfl⟩
  · exact ⟨_, .inr (.inl rfl)⟩
  · exact ⟨_, .inr (.inr rfl)⟩

theorem eq_illegalOperand_of_requestTask (h : requestTask i = some .illegalOperand) :
    ∃ a c, i = .illegalOperand a c := by
  cases i <;> cases h
  exact ⟨_, _, rfl⟩

theorem eq_rdenergy_of_requestTask (h : requestTask i = some (.parse .rdenergy)) : ∃ a c, i = .rdenergy a c := by
  cases i <;> cases h
  exact ⟨_, _, rfl⟩
end

/-! ## The obligation, one kind of instruction at a time -/

/-- A register that changed was written by one of its own writers: the statement for one instruction and two states. -/
def ChangedByOwnWriter (i : Instr) (s t : State) : Prop :=
  (t.ready ≠ s.ready → (∃ a c, i = .chkrdy a c) ∨
    (isResponse i = true ∧ (s.wait = .read .chkrdy ∨ ∃ e, s.wait = .drain .chkrdy e))) ∧
  (t.triple ≠ s.triple → (∃ a, i = .rdvalV a ∨ i = .rdvalI a ∨ i = .rdvalP a) ∨ (∃ a c, i = .illegalOperand a c) ∨
    (isResponse i = true ∧ ∃ ch, (s.wait = .read (.rdval ch) ∨ ∃ e, s.wait = .drain (.rdval ch) e))) ∧
  (t.energy ≠ s.energy → (∃ a c, i = .rdenergy a c) ∨
    (isResponse i = true ∧ (s.wait = .read .rdenergy ∨ ∃ e, s.wait = .drain .rdenergy e))) ∧
  (t.crcOut ≠ s.crcOut → ∃ m, i = .crc16 m)

theorem SameResults.changedByOwnWriter {s t : State} (h : SameResults s t) (i : Instr) : ChangedByOwnWriter i s t :=
  ⟨fun hne => absurd h.ready hne, fun hne => absurd h.triple hne, fun hne => absurd h.energy hne,
    fun hne => absurd h.crcOut hne⟩

theorem TaskWritesOnly.changedByOwnWriter {i : Instr} {task : Task} {s t : State} (h : TaskWritesOnly task s t)
    (hi : requestTask i = some task) : ChangedByOwnWriter i s t := by
  obtain ⟨hcrc, hready, htriple, henergy⟩ := h
  refine ⟨fun hne => .inl ?_, fun hne => ?_, fun hne => .inl ?_, fun hne => absurd hcrc hne⟩
  · obtain rfl : task = .parse .chkrdy := by
      by_contra hother
      exact hne (hready hother)
    exact eq_chkrdy_of_requestTask hi
  · by_cases hrdval : ∃ ch, task = .parse (.rdval ch)
    · obtain ⟨ch, rfl⟩ := hrdval
      exact .inl (eq_rdval_of_requestTask hi)
    · obtain rfl : task = .illegalOperand := by
        by_contra hother
        exact hne (htriple (not_exists.1 hrdval) hother)
      exact .inr (.inl (eq_illegalOperand_of_requestTask hi))
  · obtain rfl : task = .parse .rdenergy := by
      by_contra hother
      exact hne (henergy hother)
    exact eq_rdenergy_of_requestTask hi

theorem WritesOnly.changedByOwnWriter {i : Instr} {p : Parser} {s t : State} (h : WritesOnly p s t)
    (hi : isResponse i = true) (hw : s.wait = .read p ∨ ∃ e, s.wait = .drain p e) : ChangedByOwnWriter i s t := by
  obtain ⟨-, hcrc, -, hready, htriple, henergy⟩ := h
  refine ⟨fun hne => .inr ⟨hi, ?_⟩, fun hne => .inr (.inr ⟨hi, ?_⟩), fun hne => .inr ⟨hi, ?_⟩,
    fun hne => absurd hcrc hne⟩
  · obtain rfl : p = .chkrdy := by
      by_contra hother
      exact hne (hready hother)
    exact hw
  · obtain ⟨ch, rfl⟩ : ∃ ch, p = .rdval ch := by
      by_contra hother
      exact hne (htriple (not_exists.1 hother))
    exact ⟨ch, hw⟩
  · obtain rfl : p = .rdenergy := by
      by_contra hother
      exact hne (henergy hother)
    exact hw

/-- A message writes CRCOUT alone. -/
theorem changedByOwnWriter_crc16 {m : List Byte} {s t : State} (h : exec (.crc16 m) s = .next t) :
    ChangedByOwnWriter (.crc16 m) s t := by
  have hkept : t.ready = s.ready ∧ t.triple = s.triple ∧ t.energy = s.energy := by
    cases h
    split <;> exact ⟨rfl, rfl, rfl⟩
  obtain ⟨hready, htriple, henergy⟩ := hkept
  exact ⟨fun hne => absurd hready hne, fun hne => absurd htriple hne, fun hne => absurd henergy hne, fun _ => ⟨m, rfl⟩⟩

/-- Settles O47: a request writes its task's register, a response frame that of the operation blocked in a read, a
message CRCOUT, and nothing else writes a result. -/
theorem resultRegistersHaveOneWriter : Obligations.ResultRegistersHaveOneWriter := by
  intro i s t h
  change ChangedByOwnWriter i s t
  rcases exec_kinds i with ⟨task, htask⟩ | hresponse | ⟨m, rfl⟩ | hother
  · obtain ⟨w, -, hserve⟩ := exec_request htask s
    cases hserve.symm.trans h
    exact (State.serve_taskWritesOnly _ _ _ task s).changedByOwnWriter htask
  · obtain ⟨items, hdeliver⟩ := exec_response hresponse
    cases (hdeliver s).symm.trans h
    rcases State.deliver_cases items s with ⟨p, hw, hwrites⟩ | hqueued
    · exact hwrites.changedByOwnWriter hresponse hw
    · rw [hqueued]
      exact SameResults.changedByOwnWriter ⟨rfl, rfl, rfl, rfl⟩ i
  · exact changedByOwnWriter_crc16 h
  · exact (hother s t h).changedByOwnWriter i

end Sys2Proof.Machine
end

section
/-! PROOFS. Reading the stream (O25), and what arrives during an operation (O37, O52): a read takes from the head of the
stream alone, so what arrives behind changes nothing it has seen, and a blocked read takes it as if it had been there
(20_memory.md R55, R56; 42_frame_parser.md R160; 60_exceptions.md R207, R213; log 2, log 5). -/

namespace Sys2Proof.Machine

/-! ## The stream's shapes -/

/-- A stream holds `n` bytes at its head, or has a point of failure before them, or ends before either. -/
theorem stream_shapes : ∀ (n : Nat) (r : List RxItem),
    (∃ bs rest, bs.length = n ∧ r = onStream bs ++ rest) ∨
    (∃ lost rest, lost.length < n ∧ r = onStream lost ++ .fail :: rest) ∨
    (∃ pending, pending.length < n ∧ r = onStream pending)
  | 0, r => .inl ⟨[], r, rfl, rfl⟩
  | n + 1, [] => .inr (.inr ⟨[], n.succ_pos, rfl⟩)
  | n + 1, .fail :: r => .inr (.inl ⟨[], r, n.succ_pos, rfl⟩)
  | n + 1, .byte b :: r => by
    rcases stream_shapes n r with ⟨bs, rest, hl, rfl⟩ | ⟨lost, rest, hl, rfl⟩ | ⟨pending, hl, rfl⟩
    · exact .inl ⟨b :: bs, rest, congrArg Nat.succ hl, rfl⟩
    · exact .inr (.inl ⟨b :: lost, rest, Nat.succ_lt_succ hl, rfl⟩)
    · exact .inr (.inr ⟨b :: pending, Nat.succ_lt_succ hl, rfl⟩)

/-- Settles O25: each shape of the stream has its own outcome. -/
theorem readGivesBytesOrFailsOrWaits : Obligations.ReadGivesBytesOrFailsOrWaits := by
  intro n r
  rcases stream_shapes n r with ⟨bs, rest, rfl, rfl⟩ | ⟨lost, rest, hl, rfl⟩ | ⟨pending, hl, rfl⟩
  · exact .inl ⟨bs, rest, rfl, rfl, rxTake_bytes bs rest⟩
  · exact .inr (.inl ⟨lost, rest, hl, rfl, rxTake_failed lost rest n hl⟩)
  · exact .inr (.inr ⟨pending, hl, rfl, rxTake_silent pending n hl⟩)

/-! ## A read that is answered -/

/-- A read of `n` on `r` is answered, with bytes or by a failure, and leaves `rest`: all a drain looks at (R160). -/
def ReadLeaves (n : Nat) (r rest : List RxItem) : Prop :=
  (∃ bytes, rxTake n r = .got bytes rest) ∨ rxTake n r = .failed rest

section
variable {n : Nat} {r rest : List RxItem}

theorem rxTake_append_of_got {bytes : List Byte} (h : rxTake n r = .got bytes rest) (more : List RxItem) :
    rxTake n (r ++ more) = .got bytes (rest ++ more) := by
  rw [rxTake_append more n r (by simp [h]), h]

theorem rxTake_append_of_failed (h : rxTake n r = .failed rest) (more : List RxItem) :
    rxTake n (r ++ more) = .failed (rest ++ more) := by
  rw [rxTake_append more n r (by simp [h]), h]

theorem ReadLeaves.of_bytes {bytes : List Byte} (h : bytes.length = n) :
    ReadLeaves n (onStream bytes ++ rest) rest := h ▸ .inl ⟨bytes, rxTake_bytes bytes rest⟩

theorem ReadLeaves.of_failure {lost : List Byte} (h : lost.length < n) :
    ReadLeaves n (onStream lost ++ .fail :: rest) rest := .inr (rxTake_failed lost rest n h)

theorem ReadLeaves.append (h : ReadLeaves n r rest) (more : List RxItem) :
    ReadLeaves n (r ++ more) (rest ++ more) := by
  rcases h with ⟨bytes, h⟩ | h
  · exact .inl ⟨bytes, rxTake_append_of_got h more⟩
  · exact .inr (rxTake_append_of_failed h more)
end

section
variable {p : Parser} {e : Cause} {s : State} {rest : List RxItem}

theorem State.continueRead_silent (h : rxTake p.readLen s.rx = .silent) :
    s.continueRead p = { s with wait := .read p } := by simp only [State.continueRead, h]

theorem State.continueRead_failed (h : rxTake p.readLen s.rx = .failed rest) :
    s.continueRead p = { s with rx := rest }.recover .transportFailure (.parser p) := by
  simp only [State.continueRead, h]
  exact State.raise_without_drain rfl p _

theorem State.continueRead_got {bytes : List Byte} (h : rxTake p.readLen s.rx = .got bytes rest) :
    s.continueRead p = ({ s with rx := rest }.receive p.readLen bytes).conclude p := by
  simp only [State.continueRead, h]

theorem State.continueDrain_silent (h : rxTake p.drainLen s.rx = .silent) :
    s.continueDrain e p = { s with wait := .drain p e } := by simp only [State.continueDrain, h]

theorem State.continueDrain_answered (h : ReadLeaves p.drainLen s.rx rest) :
    s.continueDrain e p = { s with rx := rest }.recover e (.parser p) := by
  rcases h with ⟨bytes, h⟩ | h <;> simp only [State.continueDrain, h]
end

/-! ## Arrivals before and after (R55, R56): each operation on the longer stream is the operation, then the delivery -/

section
variable (e : Cause) (p : Parser) (more : List RxItem) (s : State)

theorem State.recover_arrivals (o : Operation) :
    { s with rx := s.rx ++ more }.recover e o = (s.recover e o).deliver more := by
  rw [State.deliver_none rfl]
  rcases o with _ | (_ | ch | _) | _ | _ <;> rfl

theorem State.succeed_arrivals : { s with rx := s.rx ++ more }.succeed p = (s.succeed p).deliver more := by
  rw [State.deliver_none rfl]
  rcases p with _ | ch | _ <;> rfl

theorem State.continueDrain_arrivals :
    { s with rx := s.rx ++ more }.continueDrain e p = (s.continueDrain e p).deliver more := by
  rcases State.continueDrain_cases e p s with ⟨-, h⟩ | ⟨rest, hr, h⟩ <;> rw [h]
  · rw [State.deliver_drain rfl]
    exact (State.continueDrain_wait e p (.drain p e) { s with rx := s.rx ++ more }).symm
  · rw [State.continueDrain_answered (s := { s with rx := s.rx ++ more }) (ReadLeaves.append hr more)]
    exact State.recover_arrivals e more { s with rx := rest } (.parser p)

theorem State.conclude_arrivals : { s with rx := s.rx ++ more }.conclude p = (s.conclude p).deliver more := by
  have hverdict : { s with rx := s.rx ++ more }.verdict p = s.verdict p := rfl
  unfold State.conclude
  rw [hverdict]
  cases hv : s.verdict p with
  | some e =>
    simp only [State.raise_drains (State.verdict_drains hv)]
    exact State.continueDrain_arrivals e p more (s.callRx p.drainLen)
  | none => exact State.succeed_arrivals p more s

theorem State.continueRead_arrivals :
    { s with rx := s.rx ++ more }.continueRead p = (s.continueRead p).deliver more := by
  rcases State.continueRead_cases p s with ⟨-, h⟩ | ⟨rest, hr, h⟩ | ⟨bytes, rest, hr, h⟩ <;> rw [h]
  · rw [State.deliver_read rfl]
    exact (State.continueRead_wait p (.read p) { s with rx := s.rx ++ more }).symm
  · rw [State.continueRead_failed (s := { s with rx := s.rx ++ more }) (rxTake_append_of_failed hr more)]
    exact State.recover_arrivals .transportFailure more { s with rx := rest } (.parser p)
  · rw [State.continueRead_got (s := { s with rx := s.rx ++ more }) (rxTake_append_of_got hr more)]
    exact State.conclude_arrivals p more ({ s with rx := rest }.receive p.readLen bytes)

theorem State.startParser_arrivals :
    { s with rx := s.rx ++ more }.startParser p = { s.startParser p with rx := (s.startParser p).rx ++ more } := by
  rcases p with _ | ch | _ <;> rfl

theorem State.perform_arrivals (t : Task) :
    { s with rx := s.rx ++ more }.perform t = (s.perform t).deliver more := by
  cases t with
  | build f =>
    rw [State.perform_build, State.perform_build, State.deliver_none rfl]
    rfl
  | parse p =>
    simp only [State.perform, State.runParser, State.startParser_arrivals]
    exact State.continueRead_arrivals p more (s.startParser p)
  | illegalOperation => exact State.recover_arrivals .illegalOperation more s .illegalOperation
  | illegalOperand => exact State.recover_arrivals .illegalOperand more s .illegalOperand
end

/-- Settles O37: the request serves one task with the same operands on either stream, and performing it on the longer
one is performing it and then delivering the rest. -/
theorem arrivalTimeIsNotObservable : Obligations.ArrivalTimeIsNotObservable := by
  intro i s more hb hi
  rw [isRequest_eq] at hi
  obtain ⟨task, htask⟩ := Option.isSome_iff_exists.1 hi
  obtain ⟨w, hw, hs⟩ := exec_request htask s
  obtain ⟨w', hw', hmore⟩ := exec_request htask { s with rx := s.rx ++ more }
  cases hw.symm.trans hw'
  rw [State.serve_idle hb] at hs
  rw [State.serve_idle (s := { s with rx := s.rx ++ more }) hb] at hmore
  exact ⟨_, hs, hmore.trans (congrArg Host.Outcome.next (State.perform_arrivals more (s.accept _ _ _) task))⟩

/-! ## The delivery that answers a blocked read -/

theorem State.deliver_accepted {s : State} {t : Task} (h : s.wait = .accepted t) (items : List RxItem) :
    s.deliver items = { s with rx := s.rx ++ items } := by simp only [State.deliver, State.resume, h]

theorem State.deliver_rejected {s : State} {p : Parser} {e : Cause} (h : s.wait = .rejected p e)
    (items : List RxItem) : s.deliver items = { s with rx := s.rx ++ items } := by
  simp only [State.deliver, State.resume, h]

/-- A parser operation's recovery with the failure value written last. -/
theorem State.recover_parser (e : Cause) (p : Parser) (s : State) :
    s.recover e (.parser p) =
      { s with busy := false, wait := .none, status := e.code }.failureValue (.parser p) := by
  rcases p with _ | ch | _ <;> rfl

section
variable {s : State} {p : Parser} {items : List RxItem}

/-- A read still short of its bytes stays where it is. -/
theorem State.deliver_short {bs : List Byte} (hw : s.wait = .read p ∨ ∃ e, s.wait = .drain p e)
    (hr : s.rx ++ items = onStream bs) (hl : bs.length < p.readLen) :
    s.deliver items = { s with rx := onStream bs } := by
  have hsilent := rxTake_silent bs p.readLen hl
  rcases hw with hw | ⟨e, hw⟩
  · rw [State.deliver_read hw, hr, State.continueRead_silent hsilent, ← hw]
  · rw [State.deliver_drain hw, hr, State.continueDrain_silent (s := { s with rx := onStream bs }) hsilent, ← hw]

theorem State.deliver_read_failed {lost : List Byte} {rest : List RxItem} (hw : s.wait = .read p)
    (hr : s.rx ++ items = onStream lost ++ .fail :: rest) (hl : lost.length < p.readLen) :
    s.deliver items = { s with rx := rest }.recover .transportFailure (.parser p) := by
  have hfailed := rxTake_failed lost rest p.readLen hl
  rw [State.deliver_read hw, hr, State.continueRead_failed hfailed]

theorem State.deliver_drain_answered {e : Cause} {rest : List RxItem} (hw : s.wait = .drain p e)
    (hr : ReadLeaves p.drainLen (s.rx ++ items) rest) :
    s.deliver items = { s with rx := rest }.recover e (.parser p) := by
  rw [State.deliver_drain hw, State.continueDrain_answered hr]
end

/-- Settles O52: no read looks at the stream, or the read outstanding is short, failed or answered. -/
theorem arrivalsAnswerTheBlockedRead : Obligations.ArrivalsAnswerTheBlockedRead := by
  intro s items
  refine ⟨?_, fun p bs hw hr hl => State.deliver_short hw hr hl, fun p lost rest hw hr hl => ?_,
    fun p e code rest hw hcode hr => ?_⟩
  · rintro (hw | ⟨t, hw⟩ | ⟨p, e, hw⟩)
    · exact State.deliver_none hw items
    · exact State.deliver_accepted hw items
    · exact State.deliver_rejected hw items
  · rw [State.deliver_read_failed hw hr hl]
    exact State.recover_parser .transportFailure p { s with rx := rest }
  · have hleaves : ReadLeaves p.drainLen (s.rx ++ items) rest := by
      rcases hr with ⟨bs, hl, hr⟩ | ⟨bs, hl, hr⟩ <;> rw [hr]
      · exact .of_bytes hl
      · exact .of_failure hl
    have hcode' : code = e.code := by rcases hcode with ⟨rfl, rfl⟩ | ⟨rfl, rfl⟩ <;> rfl
    rw [State.deliver_drain_answered hw hleaves, hcode']
    exact State.recover_parser e p { s with rx := rest }

end Sys2Proof.Machine
end

section
/-! PROOFS. The transport calls of one request (O23, O49): a builder's one write, a parser's read and the drain of a
rejected response, and none for an illegal request (20_memory.md R54, R55; 41_frame_builder.md R134; 42_frame_parser.md
R150, R160; 60_exceptions.md R208, R209). -/

namespace Sys2Proof.Machine

/-! ## Writes -/

theorem requestTask_of_isBuilder {i : Instr} (h : isBuilder i = true) : ∃ f, requestTask i = some (.build f) := by
  cases i <;> cases h <;> exact ⟨_, rfl⟩

theorem requestTask_of_isIllegal {i : Instr} (h : isIllegal i = true) :
    ∃ task, requestTask i = some task ∧ (task = .illegalOperation ∨ task = .illegalOperand) := by
  cases i <;> cases h
  · exact ⟨_, rfl, .inr rfl⟩
  · exact ⟨_, rfl, .inl rfl⟩

/-- A request at an idle engine performs its task on an accepted state. -/
theorem exec_request_idle {i : Instr} {task : Task} {s : State} (h : requestTask i = some task) (hb : s.busy = false) :
    ∃ op a c, exec i s = .next ((s.accept op a c).perform task) := by
  obtain ⟨op, a, c, hexec⟩ := exec_eq_serve h s
  rw [State.serve_idle hb] at hexec
  exact ⟨op, a, c, hexec⟩

theorem State.nextTxAnswer_cons {s : State} {r : TxAnswer} {more : List TxAnswer} (h : s.txAnswers = r :: more) :
    s.nextTxAnswer = r := by simp only [State.nextTxAnswer, h]

theorem State.nextTxAnswer_nil {s : State} (h : s.txAnswers = []) :
    s.nextTxAnswer = Config.freeTxAnswer s.txCalls := by simp only [State.nextTxAnswer, h]

/-- Either answer of the write ends a builder's task (R134). -/
theorem State.perform_build_ends (f : Form) (s : State) :
    (s.perform (.build f)).busy = false ∧
      ((s.perform (.build f)).status = stOk ∨ (s.perform (.build f)).status = stTransportFailure) := by
  rw [State.perform_build]
  exact ⟨rfl, ite_eq_or_eq _ _ _⟩

/-- Settles O23: the answer is listed or free, and a builder's end has a code for either. -/
theorem writeAnswerIsListedOrFree : Obligations.WriteAnswerIsListedOrFree := by
  refine ⟨fun s r more h => State.nextTxAnswer_cons h, fun s h => State.nextTxAnswer_nil h, fun i s hi hb => ?_⟩
  obtain ⟨f, hf⟩ := requestTask_of_isBuilder hi
  obtain ⟨op, a, c, hexec⟩ := exec_request_idle hf hb
  obtain ⟨hbusy, hstatus⟩ := State.perform_build_ends f (s.accept op a c)
  exact ⟨_, hexec, hbusy, hstatus⟩

/-! ## Reads -/

/-- The operation ended with one of two codes. -/
def State.EndedWith (t : State) (code code' : BitVec 3) : Prop :=
  t.busy = false ∧ (t.status = code ∨ t.status = code')

/-- How a parser operation whose first read stands issued at `s` comes to `t`: with no further call, or with the drain
of a rejected response. -/
def State.ReadsOnTo (p : Parser) (s t : State) : Prop :=
  (t.history = s.history ∧ (t.EndedWith stOk stTransportFailure ∨ t.wait = .read p)) ∨
  (t.history = s.history ++ [.rx p.drainLen] ∧
    (t.EndedWith stChecksumMismatch stDeviceStatusError ∨ ∃ e, t.wait = .drain p e))

@[simp] theorem State.recover_history (e : Cause) (o : Operation) (s : State) :
    (s.recover e o).history = s.history := by
  rcases o with _ | (_ | ch | _) | _ | _ <;> rfl

@[simp] theorem State.succeed_history (p : Parser) (s : State) : (s.succeed p).history = s.history := by
  cases p <;> rfl

@[simp] theorem State.continueDrain_history (e : Cause) (p : Parser) (s : State) :
    (s.continueDrain e p).history = s.history := by
  rcases State.continueDrain_cases e p s with ⟨-, h⟩ | ⟨rest, -, h⟩ <;> rw [h]
  exact State.recover_history e (.parser p) { s with rx := rest }

/-- A drain is not answered, or ends with its error's code. -/
theorem State.continueDrain_ending (e : Cause) (p : Parser) (s : State) :
    ((s.continueDrain e p).busy = false ∧ (s.continueDrain e p).status = e.code) ∨
      (s.continueDrain e p).wait = .drain p e := by
  rcases State.continueDrain_cases e p s with ⟨-, h⟩ | ⟨rest, -, h⟩ <;> rw [h]
  · exact .inr rfl
  · exact .inl ⟨rfl, rfl⟩

/-- A draining error has one of two codes (R160, R200). -/
theorem Cause.code_of_drains {e : Cause} (h : e.drains = true) :
    e.code = stChecksumMismatch ∨ e.code = stDeviceStatusError := by
  cases e <;> cases h
  · exact .inl rfl
  · exact .inr rfl

theorem State.readsOnTo_conclude (p : Parser) (s : State) : s.ReadsOnTo p (s.conclude p) := by
  rcases State.conclude_eq p s with ⟨e, hv, h⟩ | ⟨-, h⟩ <;> rw [h]
  · refine .inr ⟨by simp, ?_⟩
    have hcode := Cause.code_of_drains (State.verdict_drains hv)
    rcases State.continueDrain_ending e p (s.callRx p.drainLen) with ⟨hb, hs⟩ | hw
    · exact .inl ⟨hb, hs ▸ hcode⟩
    · exact .inr ⟨e, hw⟩
  · exact .inl ⟨s.succeed_history p, .inl ⟨rfl, .inl rfl⟩⟩

theorem State.readsOnTo_continueRead (p : Parser) (s : State) : s.ReadsOnTo p (s.continueRead p) := by
  rcases State.continueRead_cases p s with ⟨-, h⟩ | ⟨rest, -, h⟩ | ⟨bytes, rest, -, h⟩ <;> rw [h]
  · exact .inl ⟨rfl, .inr rfl⟩
  · exact .inl ⟨by simp, .inl ⟨rfl, .inr rfl⟩⟩
  · exact State.readsOnTo_conclude p ({ s with rx := rest }.receive p.readLen bytes)

/-- An illegal request's task ends without a look at the transport (R208, R209). -/
theorem State.perform_illegal_keeps_transport {task : Task} (h : task = .illegalOperation ∨ task = .illegalOperand)
    (s : State) : (s.perform task).history = s.history ∧ (s.perform task).rx = s.rx := by
  rcases h with rfl | rfl <;> exact ⟨rfl, rfl⟩

/-- Settles O49: the kind of the request gives its task, and the task its calls. -/
theorem transportCallsOfOneRequest : Obligations.TransportCallsOfOneRequest := by
  intro i s t hb h
  refine ⟨fun hi => ?_, fun hi => ?_, fun p op a c hi => ?_⟩
  · obtain ⟨f, hf⟩ := requestTask_of_isBuilder hi
    obtain ⟨op, a, c, hexec⟩ := exec_request_idle hf hb
    cases hexec.symm.trans h
    rw [State.perform_build]
    exact ⟨_, _, rfl⟩
  · obtain ⟨task, htask, hillegal⟩ := requestTask_of_isIllegal hi
    obtain ⟨op, a, c, hexec⟩ := exec_request_idle htask hb
    cases hexec.symm.trans h
    exact State.perform_illegal_keeps_transport hillegal (s.accept op a c)
  · cases (exec_parser hb hi).symm.trans h
    have hreads := State.readsOnTo_continueRead p ((s.accept op a c).startParser p)
    rw [State.ReadsOnTo, State.startParser_history, List.append_assoc] at hreads
    exact hreads

end Sys2Proof.Machine
end

section
/-! PROOFS. The port words and their instructions (O5, O6): decoding takes back what the encoder wrote, on the request
port, for the request frames and for the response frames (30_encoding.md R80 to R90). -/

namespace Sys2Proof

open Sys2Proof.Machine

/-! ## Request words (R80 to R82) -/

theorem Params.wf_iff {p : Params} : p.wf = true ↔
    p.cmdVoltage ≠ p.cmdCurrent ∧ p.cmdVoltage ≠ p.cmdPower ∧ p.cmdCurrent ≠ p.cmdPower := by
  simp [Params.wf, and_assoc]

theorem Params.noChannel_iff {p : Params} {c : Byte} : p.noChannel c = true ↔
    c ≠ p.cmdVoltage ∧ c ≠ p.cmdCurrent ∧ c ≠ p.cmdPower := by
  simp [Params.noChannel, and_assoc]

theorem decode_requestWord (p : Params) (op : BitVec 3) (a c : Byte) :
    decode p (.request (requestWord op a c)) = .ok (decodeFields p op a c) :=
  congrArg Except.ok (decodeRequest_append p op a c)

/-- The instruction of a request word is well-formed: a row's condition is what the decoder selected it by. -/
theorem wf_decodeFields (p : Params) (op : BitVec 3) (a c : Byte) : (decodeFields p op a c).wf p = true := by
  rcases op_cases op with rfl | rfl | rfl | rfl | rfl | hop
  · rw [decodeFields_sess]
    split
    · rfl
    · exact bne_iff_ne.2 ‹_›
  · rfl
  · rw [decodeFields_req]
    split
    next hc => exact hc
    next hc => simpa [Instr.wf] using hc
  · rw [decodeFields_rdval]
    split
    · rfl
    split
    · rfl
    split
    · rfl
    · exact Params.noChannel_iff.2 ⟨‹_›, ‹_›, ‹_›⟩
  · rfl
  · rw [decodeFields_reserved p a c hop]
    exact hop

section
variable {p : Params} (hp : p.wf = true)
include hp

theorem decodeFields_cmdCurrent (a : Byte) : decodeFields p 4#3 a p.cmdCurrent = .rdvalI a := by
  obtain ⟨hvc, -, -⟩ := Params.wf_iff.1 hp
  rw [decodeFields_rdval, if_neg hvc.symm, if_pos rfl]

theorem decodeFields_cmdPower (a : Byte) : decodeFields p 4#3 a p.cmdPower = .rdvalP a := by
  obtain ⟨-, hvp, hcp⟩ := Params.wf_iff.1 hp
  rw [decodeFields_rdval, if_neg hvp.symm, if_neg hcp.symm, if_pos rfl]

end

theorem decodeFields_noChannel {p : Params} {c : Byte} (h : p.noChannel c = true) (a : Byte) :
    decodeFields p 4#3 a c = .illegalOperand a c := by
  obtain ⟨hv, hc, hp⟩ := Params.noChannel_iff.1 h
  rw [decodeFields_rdval, if_neg hv, if_neg hc, if_neg hp]

/-! ## Frames to the transport (R83 to R86) -/

theorem take_frame (h : List Byte) : (frame h).take ((frame h).length - 2) = h := by
  rw [length_frame]
  exact List.take_left' rfl

/-- A built frame passes the trailer check: what is left of its decoding is its format. -/
theorem decodeTxFrame_frame {h : List Byte}
    (hl : (frame h).length = lenSess ∨ (frame h).length = lenReq ∨ (frame h).length = lenOpen) :
    decodeTxFrame (frame h) = decodeTxFormat (frame h) := by
  rw [decodeTxFrame, if_pos hl, take_frame, if_pos rfl]

theorem decodeTxFrame_openFrame (a : Byte) : decodeTxFrame (frame (openHeader a cmdOpen)) = .ok (.fOpen a) := by
  rw [decodeTxFrame_frame (.inr (.inr rfl))]
  exact if_pos rfl

theorem decodeTxFrame_sessFrame (a : Byte) {c : Byte} (h : c ≠ cmdOpen) :
    decodeTxFrame (frame (sessHeader a c)) = .ok (.fSess a c) := by
  rw [decodeTxFrame_frame (.inl rfl)]
  exact if_neg h

theorem pair_instantaneous {c : Byte} (h : instantaneous c = true) : pair c = pairInst := if_pos h

theorem pair_energy {c : Byte} (h : instantaneous c = false) : pair c = pairEnrg := if_neg (by simp [h])

/-- A measurement request's frame, whose pair goes with its command (R91). -/
theorem decodeTxFrame_reqFrame (a c : Byte) : decodeTxFrame (frame (reqHeader (pair c) a c)) =
    if instantaneous c then .ok (.fReqInst a c) else .ok (.fReqEnrg a c) := by
  rw [decodeTxFrame_frame (.inr (.inl rfl))]
  exact if_pos rfl

/-! ## Frames from the transport (R83, R87 to R90, R94) -/

/-- The trailer a frame carries is read back as it was received (R58). -/
theorem trailerOf_withTrailer {h : List Byte} {n : Nat} (hn : n = h.length + 2) (c : Word16) :
    trailerOf (withTrailer h c) n = c := by
  subst hn
  simp [trailerOf, withTrailer, byteAt]

theorem decodeRxFrame_ackBytes (x st : Byte) (c : Word16) :
    decodeRxFrame (ackBytes x st c) = .ok (.fAck x st c) :=
  congrArg (Except.ok ∘ Instr.fAck x st) (trailerOf_withTrailer rfl c)

theorem decodeRxFrame_meas12Bytes (x : Byte) (f0 f1 f2 : Field3) (c : Word16) :
    decodeRxFrame (meas12Bytes x f0 f1 f2 c) = .ok (.fMeas12 x f0 f1 f2 c) :=
  congrArg (Except.ok ∘ Instr.fMeas12 x f0 f1 f2) (trailerOf_withTrailer rfl c)

theorem decodeRxFrame_meas15Bytes (x : Byte) (sk f0 f1 f2 : Field3) (c : Word16) :
    decodeRxFrame (meas15Bytes x sk f0 f1 f2 c) = .ok (.fMeas15 x sk f0 f1 f2 c) :=
  congrArg (Except.ok ∘ Instr.fMeas15 x sk f0 f1 f2) (trailerOf_withTrailer rfl c)

theorem decodeRxFrame_energyBytes (x e1 e2 e3 e4 : Byte) {others : List Byte} (h : others.length = 12) (c : Word16) :
    decodeRxFrame (energyBytes x e1 e2 e3 e4 others c) = .ok (.fEnergy x e1 e2 e3 e4 others c) := by
  have hlen : (energyBytes x e1 e2 e3 e4 others c).length = lenEnergy := by simp [energyBytes, withTrailer, h]
  have hothers : ((energyBytes x e1 e2 e3 e4 others c).drop 5).take 12 = others := List.take_left' h
  have htrailer : trailerOf (energyBytes x e1 e2 e3 e4 others c) lenEnergy = c :=
    trailerOf_withTrailer (by simp [h]) c
  rw [decodeRxFrame, hlen, hothers, htrailer]
  rfl

/-! ## The obligations -/

/-- Settles O5: each port's decoder selects the row by the condition that makes the instruction well-formed. -/
theorem decodeOfEncodeIsTheInstruction : Obligations.DecodeOfEncodeIsTheInstruction := by
  intro p i hp hi
  cases i with
  | sessOpen a => exact decode_requestWord p _ _ _
  | sessCmd a c =>
    have hc : c ≠ 0x01#8 := by simpa [Instr.wf] using hi
    rw [encode, decode_requestWord, decodeFields_sess, if_neg hc]
  | chkrdy a c => exact decode_requestWord p _ _ _
  | reqInst a c => rw [encode, decode_requestWord, decodeFields_req, if_pos (show instantaneous c = true from hi)]
  | reqEnrg a c =>
    have hc : ¬instantaneous c = true := by simpa [Instr.wf] using hi
    rw [encode, decode_requestWord, decodeFields_req, if_neg hc]
  | rdvalV a => rw [encode, decode_requestWord, decodeFields_rdval, if_pos rfl]
  | rdvalI a => rw [encode, decode_requestWord, decodeFields_cmdCurrent hp]
  | rdvalP a => rw [encode, decode_requestWord, decodeFields_cmdPower hp]
  | illegalOperand a c => rw [encode, decode_requestWord, decodeFields_noChannel hi]
  | rdenergy a c => exact decode_requestWord p _ _ _
  | illegalOperation op a c => rw [encode, decode_requestWord, decodeFields_reserved p a c hi]
  | crc16 _ | crcInit | crcByte _ | crcStep | dec24 _ _ _ | dec24p _ _ _ | dec32 _ _ _ _ => rfl
  | fOpen a => exact decodeTxFrame_openFrame a
  | fSess a c => exact decodeTxFrame_sessFrame a (by simpa [Instr.wf] using hi)
  | fReqInst a c =>
    rw [encode, ← pair_instantaneous hi]
    exact (decodeTxFrame_reqFrame a c).trans (if_pos hi)
  | fReqEnrg a c =>
    have hc : instantaneous c = false := by simpa [Instr.wf] using hi
    rw [encode, ← pair_energy hc]
    exact (decodeTxFrame_reqFrame a c).trans (if_neg (by simp [hc]))
  | fAck x st c => exact decodeRxFrame_ackBytes x st c
  | fMeas12 x f0 f1 f2 c => exact decodeRxFrame_meas12Bytes x f0 f1 f2 c
  | fMeas15 x sk f0 f1 f2 c => exact decodeRxFrame_meas15Bytes x sk f0 f1 f2 c
  | fEnergy x e1 e2 e3 e4 others c => exact decodeRxFrame_energyBytes x e1 e2 e3 e4 (by simpa [Instr.wf] using hi) c

/-- Settles O6: the word's three fields are in its instruction, which meets its row's condition. -/
theorem encodeOfADecodedRequestIsTheWord : Obligations.EncodeOfADecodedRequestIsTheWord :=
  fun p w => ⟨encode_decodeRequest p w, wf_decodeFields p _ _ _⟩

end Sys2Proof
end

section
/-! PROOFS. The opcode table's first matching row (O7, O8): a row's mask and match act on the op and on the command,
each by itself, so the rows are tried on the two fields (30_encoding.md R80 to R82). -/

namespace Sys2Proof

open Sys2Proof.Machine

theorem requestWord_inj {op op' : BitVec 3} {a a' c c' : Byte} :
    requestWord op a c = requestWord op' a' c' ↔ op = op' ∧ a = a' ∧ c = c' := by
  constructor
  · intro h
    refine ⟨?_, ?_, ?_⟩
    · simpa [requestWord] using congrArg requestOp h
    · simpa [requestWord] using congrArg requestAddress h
    · simpa [requestWord] using congrArg requestCommand h
  · rintro ⟨rfl, rfl, rfl⟩
    rfl

/-- Matching a row that leaves the address open is matching its op and its command. -/
theorem masked_requestWord_eq_iff {op m k : BitVec 3} {a c n l : Byte} :
    requestWord op a c &&& requestWord m 0x00#8 n = requestWord k 0x00#8 l ↔ op &&& m = k ∧ c &&& n = l := by
  have hand : requestWord op a c &&& requestWord m 0x00#8 n = requestWord (op &&& m) (a &&& 0x00#8) (c &&& n) := by
    simp only [requestWord, ← BitVec.and_append]
  rw [hand, BitVec.and_zero, requestWord_inj]
  simp

/-- The RDVAL rows' match as the table writes it (R82). -/
theorem rdvalMatch_eq (c : Byte) : 0x40000#19 ||| c.setWidth 19 = requestWord 4#3 0x00#8 c := by
  revert c; decide

theorem opreqRows_eq (p : Params) : opreqRows p =
    [("SESS.OPEN", requestWord 1#3 0x00#8 0x01#8, requestWord 7#3 0x00#8 0xFF#8),
     ("SESS.CMD", requestWord 1#3 0x00#8 0x00#8, requestWord 7#3 0x00#8 0x00#8),
     ("CHKRDY", requestWord 2#3 0x00#8 0x00#8, requestWord 7#3 0x00#8 0x00#8),
     ("REQ.ENRG", requestWord 3#3 0x00#8 0x00#8, requestWord 7#3 0x00#8 0xFF#8),
     ("REQ.INST", requestWord 3#3 0x00#8 0x00#8, requestWord 7#3 0x00#8 0xFC#8),
     ("REQ.INST", requestWord 3#3 0x00#8 0x04#8, requestWord 7#3 0x00#8 0xFF#8),
     ("REQ.ENRG", requestWord 3#3 0x00#8 0x00#8, requestWord 7#3 0x00#8 0x00#8),
     ("RDVAL.V", requestWord 4#3 0x00#8 p.cmdVoltage, requestWord 7#3 0x00#8 0xFF#8),
     ("RDVAL.I", requestWord 4#3 0x00#8 p.cmdCurrent, requestWord 7#3 0x00#8 0xFF#8),
     ("RDVAL.P", requestWord 4#3 0x00#8 p.cmdPower, requestWord 7#3 0x00#8 0xFF#8),
     ("ILLEGAL_OPERAND", requestWord 4#3 0x00#8 0x00#8, requestWord 7#3 0x00#8 0x00#8),
     ("RDENERGY", requestWord 5#3 0x00#8 0x00#8, requestWord 7#3 0x00#8 0x00#8),
     ("ILLEGAL_OPERATION", requestWord 0#3 0x00#8 0x00#8, requestWord 7#3 0x00#8 0x00#8),
     ("ILLEGAL_OPERATION", requestWord 6#3 0x00#8 0x00#8, requestWord 6#3 0x00#8 0x00#8)] := by
  simp only [← rdvalMatch_eq]
  rfl

theorem and_opMask (op : BitVec 3) : op &&& 7#3 = op := BitVec.and_allOnes

theorem and_commandMask (c : Byte) : c &&& 0xFF#8 = c := BitVec.and_allOnes

/-- The instantaneous commands 1 to 4 as the table's rows pick them out. -/
theorem instantaneous_iff_rows (c : Byte) :
    instantaneous c = true ↔ c ≠ 0x00#8 ∧ (c &&& 0xFC#8 = 0x00#8 ∨ c = 0x04#8) := by
  revert c; decide

/-- Trying the rows in order: the first one decides, or the rest do. -/
theorem map_find?_cons {α β : Type} (q : α → Bool) (f : α → β) (r : α) (rows : List α) :
    ((r :: rows).find? q).map f = if q r then some (f r) else (rows.find? q).map f := by
  rw [List.find?_cons]
  cases q r <;> rfl

section
variable (p : Params) (a c : Byte)

theorem mnemonic_sess :
    (decodeFields p 1#3 a c).mnemonic = if c = 0x01#8 then "SESS.OPEN" else "SESS.CMD" := by
  rw [decodeFields_sess]
  exact apply_ite Instr.mnemonic _ _ _

theorem mnemonic_req :
    (decodeFields p 3#3 a c).mnemonic = if instantaneous c then "REQ.INST" else "REQ.ENRG" := by
  rw [decodeFields_req]
  exact apply_ite Instr.mnemonic _ _ _

theorem mnemonic_rdval : (decodeFields p 4#3 a c).mnemonic =
    if c = p.cmdVoltage then "RDVAL.V" else if c = p.cmdCurrent then "RDVAL.I"
    else if c = p.cmdPower then "RDVAL.P" else "ILLEGAL_OPERAND" := by
  simp only [decodeFields_rdval, apply_ite Instr.mnemonic]
  rfl
end

/-- The first row that matches a word is that of its instruction: the op alone leaves the rows of one code to try, and
the command decides among them. -/
theorem firstRow_requestWord (p : Params) (op : BitVec 3) (a c : Byte) :
    firstRow p (requestWord op a c) = some (decodeFields p op a c).mnemonic := by
  rw [firstRow, opreqRows_eq]
  simp only [map_find?_cons, masked_requestWord_eq_iff, and_opMask, and_commandMask, BitVec.and_zero, decide_eq_true_eq]
  rcases op_cases op with rfl | rfl | rfl | rfl | rfl | hop
  · simp [mnemonic_sess, apply_ite some]
  · rfl
  · rw [mnemonic_req]
    by_cases hz : c = 0x00#8
    · subst hz
      rfl
    by_cases hm : c &&& 0xFC#8 = 0x00#8
    · simp [instantaneous_iff_rows, hz, hm]
    · simp [instantaneous_iff_rows, hz, hm, apply_ite some]
  · simp [mnemonic_rdval, apply_ite some]
  · rfl
  · rw [decodeFields_reserved p a c hop]
    simp only [reservedOp, Bool.or_eq_true, beq_iff_eq] at hop
    rcases hop with (rfl | rfl) | rfl <;> rfl

/-- Settles O7: the fields of the concatenated word are the three, and the table's rows match field by field. -/
theorem tableRowsDecodeAsThePseudocode : Obligations.TableRowsDecodeAsThePseudocode := by
  intro p op a c
  rw [decodeRequest_append]
  refine ⟨?_, firstRow_requestWord p op a c⟩
  simp only [← instantaneous_iff]
  rfl

/-- Settles O8: V5.1, V5.2, V5.5, V5.6, V5.8, V5.12, V5.14, V5.15 and V5.18, each word run through the decoder. -/
theorem specWordsDecodeToTheirOperations : Obligations.SpecWordsDecodeToTheirOperations :=
  ⟨rfl, rfl, rfl, rfl, rfl, rfl, rfl, rfl, rfl⟩

end Sys2Proof
end

section
/-! PROOFS. What a step does with a request word, a message and an arrival, and the frame rows (O9, O10, O24, O26, O44):
a FRAME-TX row is its frame built in TXBUF, a FRAME-RX row the arrival of its bytes (30_encoding.md R83 to R90; log 9,
log 10). -/

namespace Sys2Proof.Machine

/-! ## A response frame is what its bytes decode to -/

/-- A sequence is its bytes by index (R9). -/
theorem eq_map_byteAt {f : List Byte} {n : Nat} (h : f.length = n) : f = (List.range n).map (byteAt f) := by
  subst h
  refine List.ext_getElem (by simp) fun k hk _ => ?_
  simp [byteAt, hk]

theorem map_byteAt_take_drop (f : List Byte) (i : Nat) {n : Nat} (h : i + n ≤ f.length) :
    (f.drop i).take n = (List.range n).map fun k => byteAt f (i + k) := by
  refine List.ext_getElem (by simp; omega) fun k hk _ => ?_
  have hk' : i + k < f.length := by simp at hk; omega
  simp [byteAt, hk']

/-- A trailer read off a sequence is written as its two bytes. -/
theorem withTrailer_trailerOf (h f : List Byte) (n : Nat) :
    withTrailer h (trailerOf f n) = h ++ [byteAt f (n - 2), byteAt f (n - 1)] := by simp [withTrailer, trailerOf]

section
variable {f : List Byte}

theorem ackBytes_of_length (h : f.length = lenAck) :
    ackBytes (byteAt f 0) (byteAt f 1) (trailerOf f lenAck) = f :=
  (withTrailer_trailerOf _ f lenAck).trans (eq_map_byteAt h).symm

theorem meas12Bytes_of_length (h : f.length = lenMeasVI) :
    meas12Bytes (byteAt f 0) (field3 f 1) (field3 f 4) (field3 f 7) (trailerOf f lenMeasVI) = f :=
  (withTrailer_trailerOf _ f lenMeasVI).trans (eq_map_byteAt h).symm

theorem meas15Bytes_of_length (h : f.length = lenMeasP) :
    meas15Bytes (byteAt f 0) (field3 f 1) (field3 f 4) (field3 f 7) (field3 f 10) (trailerOf f lenMeasP) = f :=
  (withTrailer_trailerOf _ f lenMeasP).trans (eq_map_byteAt h).symm

theorem energyBytes_of_length (h : f.length = lenEnergy) :
    energyBytes (byteAt f 0) (byteAt f 1) (byteAt f 2) (byteAt f 3) (byteAt f 4) ((f.drop 5).take 12)
      (trailerOf f lenEnergy) = f := by
  rw [map_byteAt_take_drop f 5 (by rw [h]; decide)]
  exact (withTrailer_trailerOf _ f lenEnergy).trans (eq_map_byteAt h).symm
end

/-- The bytes of a response frame are its encoding: the format is its length's and nothing is dropped (R94, R95). -/
theorem encode_of_decodeRxFrame {f : List Byte} {i : Instr} (h : decodeRxFrame f = .ok i) (p : Params) :
    encode p i = .rxFrame f := by
  unfold decodeRxFrame at h
  split at h
  next hl =>
    cases h
    exact congrArg PortWord.rxFrame (ackBytes_of_length hl)
  split at h
  next hl =>
    cases h
    exact congrArg PortWord.rxFrame (meas12Bytes_of_length hl)
  split at h
  next hl =>
    cases h
    exact congrArg PortWord.rxFrame (meas15Bytes_of_length hl)
  split at h
  next hl =>
    cases h
    exact congrArg PortWord.rxFrame (energyBytes_of_length hl)
  cases h

/-! ## The frame rows as instructions -/

/-- A FRAME-RX row is the arrival of its bytes in wire order (R83; log 10). -/
theorem exec_of_encode_rxFrame {p : Params} {i : Instr} {f : List Byte} (h : encode p i = .rxFrame f) (s : State) :
    exec i s = .next (s.deliver (onStream f)) := by
  cases i <;> cases h <;> rfl

theorem State.stuck_none {s : State} (h : s.wait = .none) : s.stuck = false := by simp only [State.stuck, h]

/-! ## The obligations -/

/-- Settles O9: a request word and a message are served on the spot, and an idle engine neither is stuck nor goes on. -/
theorem stepRunsTheDecodedRequest : Obligations.StepRunsTheDecodedRequest := by
  refine ⟨fun s w rest hi => ?_, fun s m rest hi => step_cons hi, fun s hi hw => ?_⟩
  · rw [step_cons hi]
    exact (exec_decodeRequest_eq_move { s with inputs := rest } w).symm
  · rw [step_nil hi (State.stuck_none hw), State.goOn_none hw]

/-- Settles O10: an arrival's move is the delivery of its items, which for a response frame is its instruction. -/
theorem arrivingFrameRunsItsInstruction : Obligations.ArrivingFrameRunsItsInstruction := by
  refine ⟨fun s items rest hi => step_cons hi, fun s f i rest hf hi => ?_⟩
  rw [step_cons hi]
  exact (exec_of_encode_rxFrame (encode_of_decodeRxFrame hf s.params) { s with inputs := rest }).symm

/-- Settles O24: each row builds its header's frame, which a cleared TXBUF then reads as, with zeros behind it. -/
theorem requestFramesAreBuiltInTxbuf : Obligations.RequestFramesAreBuiltInTxbuf := by
  intro i h s hi
  have hexec : exec i s = .next (s.buildFrame h) := by
    rcases hi with ⟨a, rfl, rfl⟩ | ⟨a, c, rfl, rfl⟩ | ⟨a, c, rfl, rfl⟩ | ⟨a, c, rfl, rfl⟩ <;> rfl
  rw [State.buildFrame_eq] at hexec
  exact ⟨_, hexec, Memory.wf_store Memory.wf_cleared 0 (frame h), Memory.read_fresh (frame h)⟩

/-- Settles O26: the five lengths as the rule lists them, and a drain's count is the read's by definition. -/
theorem responseLengthsAndDrainLengths : Obligations.ResponseLengthsAndDrainLengths :=
  ⟨rfl, rfl, rfl, rfl, rfl, fun _ => rfl⟩

/-- Settles O44: each row delivers its bytes, and with no read outstanding a delivery only lengthens the stream. -/
theorem responseFramesQueueInWireOrder : Obligations.ResponseFramesQueueInWireOrder := by
  intro i bs s hw hi
  have hencode : encode s.params i = .rxFrame bs := by
    rcases hi with ⟨x, st, k, rfl, rfl⟩ | ⟨x, f0, f1, f2, k, rfl, rfl⟩ | ⟨x, sk, f0, f1, f2, k, rfl, rfl⟩ |
      ⟨x, e1, e2, e3, e4, others, k, rfl, rfl⟩ <;> rfl
  obtain ⟨hqueue, -⟩ := arrivalsAnswerTheBlockedRead s (onStream bs)
  rw [exec_of_encode_rxFrame hencode, hqueue hw]

end Sys2Proof.Machine
end

section
/-! PROOFS. The Checksum Engine (O13 to O17): its step halves the accumulator's number, so the loop is plain arithmetic;
low bits that are zero are only shifted out, so by linearity a byte is one table lookup, and a checksum's own two bytes
clear the accumulator (40_crc16.md R110 to R118). -/

namespace Sys2Proof.Machine

/-! ## The loop in plain arithmetic -/

/-- CRC.STEP on a number (R113): halve it and, where it was odd, XOR `CRC_POLY` in. -/
def crcStepNat (n : Nat) : Nat := if n % 2 = 1 then (n / 2) ^^^ 0xA001 else n / 2

theorem crcStep_semiconj_toNat : Function.Semiconj BitVec.toNat crcStep crcStepNat := crcStep_toNat

theorem crcByte_toNat (acc : Word16) (b : Byte) :
    (crcByte acc b).toNat = crcStepNat^[8] (acc.toNat ^^^ b.toNat) := by
  have hbyte : (b.setWidth 16).toNat = b.toNat := BitVec.toNat_setWidth_of_le (by decide)
  rw [crcByte, crcSteps_eq_iterate, (crcStep_semiconj_toNat.iterate_right 8).eq, BitVec.toNat_xor, hbyte]

theorem crcFrom_eq_foldl (acc : Word16) (s : List Byte) : crcFrom acc s = s.foldl crcByte acc := by
  induction s generalizing acc with
  | nil => rfl
  | cons b s ih => exact ih (crcByte acc b)

/-! ## The table lookup and the residue -/

theorem crcSteps_zero (k : Nat) : crcSteps k 0 = 0 := by
  induction k with
  | zero => rfl
  | succ k ih => exact ih

/-- Zero bits at the low end are shifted out and select no XOR. -/
theorem crcSteps_eq_ushiftRight {k : Nat} {a : Word16} (h : ∀ i < k, a.getLsbD i = false) :
    crcSteps k a = a >>> k := by
  induction k generalizing a with
  | zero => exact (BitVec.ushiftRight_zero a).symm
  | succ k ih =>
    have hstep : crcStep a = a >>> 1 := by rw [crcStep, h 0 k.succ_pos, if_neg Bool.false_ne_true]
    have hlow : ∀ i < k, (a >>> 1).getLsbD i = false := fun i hi => by
      rw [BitVec.getLsbD_ushiftRight]
      exact h (1 + i) (by omega)
    rw [crcSteps, hstep, ih hlow, ← BitVec.shiftRight_add, Nat.add_comm]

theorem ushiftRight_eight (a : Word16) : a >>> 8 = 0x00#8 ++ hi a :=
  BitVec.ushiftRight_eq_extractLsb'_of_lt (by decide)

theorem crcSteps_eight_high (h : Byte) : crcSteps 8 (h ++ 0x00#8) = 0x00#8 ++ h := by
  have hlow : ∀ i < 8, (h ++ 0x00#8).getLsbD i = false := fun i hi => by
    rw [BitVec.getLsbD_append, if_pos hi, BitVec.getLsbD_zero]
  rw [crcSteps_eq_ushiftRight hlow, ushiftRight_eight]
  exact congrArg (0x00#8 ++ ·) BitVec.extractLsb'_append_eq_left

theorem setWidth_eq_zero_append (b : Byte) : b.setWidth 16 = 0x00#8 ++ b := BitVec.setWidth_eq_append (by decide)

/-- A byte enters the low half and moves the high half down: the lookup of R117 (c), by the step's linearity. -/
theorem crcByte_append (h l b : Byte) : crcByte (h ++ l) b = (0x00#8 ++ h) ^^^ crcSteps 8 (0x00#8 ++ (l ^^^ b)) := by
  have hsplit : (h ++ l) ^^^ (0x00#8 ++ b) = (h ++ 0x00#8) ^^^ (0x00#8 ++ (l ^^^ b)) := by
    simp only [BitVec.xor_append, BitVec.xor_zero, BitVec.zero_xor]
  rw [crcByte, setWidth_eq_zero_append, hsplit, crcSteps_xor, crcSteps_eight_high]

/-- A byte equal to the low half clears it. -/
theorem crcByte_low (h l : Byte) : crcByte (h ++ l) l = 0x00#8 ++ h := by
  rw [crcByte_append, BitVec.xor_self]
  exact (congrArg _ (crcSteps_zero 8)).trans BitVec.xor_zero

/-- A checksum's own two bytes, low byte first, clear the accumulator. -/
theorem crcFrom_lo_hi (c : Word16) : crcFrom c [lo c, hi c] = 0 := by
  have hc : hi c ++ lo c = c := ofTrailer_lo_hi c
  calc crcFrom c [lo c, hi c]
    _ = crcByte (crcByte (hi c ++ lo c) (lo c)) (hi c) := by rw [hc]; rfl
    _ = 0 := by rw [crcByte_low, crcByte_low]; rfl

/-! ## The micro-steps as the rules write them -/

theorem crcStep_eq_ite :
    crcStep = fun a : Word16 => if a.toNat % 2 = 1 then (a >>> 1) ^^^ crcPoly else a >>> 1 := by
  funext a
  have hbit : a.getLsbD 0 = decide (a.toNat % 2 = 1) := Nat.testBit_zero _
  simp only [crcStep, hbit, decide_eq_true_eq]

/-! ## The obligations -/

/-- Settles O13: the loop's fold commutes with reading the accumulator as a number, since each byte's eight steps do. -/
theorem checksumFollowsTheArithmeticRule : Obligations.ChecksumFollowsTheArithmeticRule := by
  have hfirst : crcByte crcInitValue 0x01#8 = 0x807E#16 := rfl
  have hsecond : crcByte 0x807E#16 0x03#8 = 0x2140#16 := rfl
  refine ⟨fun s => ?_, rfl, rfl, rfl, (congrArg (crcByte · 0x03#8) hfirst).trans hsecond⟩
  rw [crc16, crcFrom_eq_foldl]
  exact (List.foldl_hom BitVec.toNat fun acc b => (crcByte_toNat acc b).symm).symm

/-- Settles O16: the loop continues from any accumulator, and a checksum's own two bytes clear it. -/
theorem checksumContinuesAndAFrameLeavesZero : Obligations.ChecksumContinuesAndAFrameLeavesZero := by
  refine ⟨fun s t => ?_, fun s => ?_⟩
  · rw [crc16, crcFrom_append, crcFrom_eq_foldl _ t]
    rfl
  · rw [crc16, frame, crcFrom_append]
    exact crcFrom_lo_hi (crc16 s)

/-- Settles O17: the accumulator with the byte in it is its high half, shifted out, and its low half, looked up. -/
theorem oneByteIsOneTableLookup : Obligations.OneByteIsOneTableLookup := by
  refine fun acc b => ⟨?_, by decide, by decide⟩
  have hindex : (acc ^^^ (0x00#8 ++ b)).extractLsb' 0 8 = lo acc ^^^ b := by
    rw [BitVec.extractLsb'_xor, BitVec.extractLsb'_append_eq_right]
    rfl
  rw [hindex, ← crcSteps_eq_iterate, ushiftRight_eight, ← crcByte_append]
  exact congrArg (crcByte · b) (ofTrailer_lo_hi acc).symm

/-- Settles O14: each row is its function on ACC; bit 0 is the number's parity, and the trace is computed. -/
theorem checksumMicroStepsWriteOnlyAcc : Obligations.ChecksumMicroStepsWriteOnlyAcc := by
  refine ⟨fun _ => rfl, fun s => ?_, fun b s => ?_, by decide, by decide, by decide, by decide⟩
  · rw [← congrFun crcStep_eq_ite s.acc]
    rfl
  · rw [← crcStep_eq_ite, ← crcSteps_eq_iterate, ← setWidth_eq_zero_append]
    rfl

/-- Settles O15: BUSY decides whether the port is served. -/
theorem checksumPortWritesItsResult : Obligations.ChecksumPortWritesItsResult :=
  fun m _ => ⟨fun h => congrArg Host.Outcome.next (State.move_message_idle h m),
    fun h => congrArg Host.Outcome.next (State.move_message_busy h m)⟩

end Sys2Proof.Machine
end

section
/-! PROOFS. The frame builder (O18 to O22): a builder request at an idle engine is one equation in its form, whose
header gives each of the four frames; a frame's last two bytes are the checksum of the rest (41_frame_builder.md R130
to R136). -/

namespace Sys2Proof.Machine

/-! ## A builder request, served -/

/-- The whole of a builder request at an idle engine, acceptance included (R134). -/
theorem State.serve_build {s : State} (hb : s.busy = false) (op : BitVec 3) (a c : Byte) (f : Form) :
    s.serve op a c (.build f) =
      { s with
        op := op, addr := a, cmd := c, busy := false, wait := .none
        txBuf := Memory.cleared.store 0 (frame (f.header a c)), acc := crc16 (f.header a c)
        status := if s.nextTxAnswer = .ok then stOk else stTransportFailure
        txAnswers := s.txAnswers.tail, txCalls := s.txCalls + 1
        history := s.history ++ [.tx (frame (f.header a c)) s.nextTxAnswer] } := by
  rw [State.serve_idle hb, State.perform_build]
  rfl

theorem instantaneous_eq_false {c : Byte} (h : c.toNat = 0 ∨ 5 ≤ c.toNat) : instantaneous c = false := by
  rw [← Bool.not_eq_true, instantaneous_iff]
  omega

/-! ## The trailer of a frame (R13, R115) -/

section
variable (h : List Byte)

theorem getD_frame_low : (frame h).getD ((frame h).length - 2) 0x00#8 = lo (crc16 h) := by
  simp [frame, trailer]

theorem getD_frame_high : (frame h).getD ((frame h).length - 1) 0x00#8 = hi (crc16 h) := by
  simp [frame, trailer]
end

/-! ## The obligations -/

/-- Settles O18: the open form served, TXBUF read back, and the word's command 0x01. -/
theorem sessOpenSendsTheOpenFrame : Obligations.SessOpenSendsTheOpenFrame := by
  refine ⟨fun a s hb => ⟨_, congrArg Host.Outcome.next (State.serve_build hb opSess a cmdOpen .openSession),
    Memory.read_fresh _⟩, fun p a => ?_, by decide +kernel⟩
  rw [decodeRequest_append, decodeFields_sess, if_pos rfl]

/-- Settles O19: the session form served, TXBUF read back, and a word whose command is not 0x01. -/
theorem sessCmdSendsTheFourByteFrame : Obligations.SessCmdSendsTheFourByteFrame := by
  refine ⟨fun a c s _ hb => ⟨_, congrArg Host.Outcome.next (State.serve_build hb opSess a c .session),
    Memory.read_fresh _⟩, fun p a c hc => ?_, by decide +kernel⟩
  rw [decodeRequest_append, decodeFields_sess, if_neg hc]

/-- Settles O20: the measurement form served, TXBUF read back, and a word whose command is instantaneous. -/
theorem reqInstSendsTheFirstPair : Obligations.ReqInstSendsTheFirstPair := by
  refine ⟨fun a c s _ _ hb => ⟨_, congrArg Host.Outcome.next (State.serve_build hb opReq a c .measure),
    Memory.read_fresh _⟩, fun p a c h0 h5 => ?_, by decide +kernel⟩
  rw [decodeRequest_append, decodeFields_req, if_pos ((instantaneous_iff c).2 ⟨h0, h5⟩)]

/-- Settles O21: the energy form served, TXBUF read back, and a word whose command is not instantaneous. -/
theorem reqEnrgSendsTheSecondPair : Obligations.ReqEnrgSendsTheSecondPair := by
  refine ⟨fun a c s _ hb => ⟨_, congrArg Host.Outcome.next (State.serve_build hb opReq a c .energy),
    Memory.read_fresh _⟩, fun p a c hc => ?_, by decide +kernel⟩
  rw [decodeRequest_append, decodeFields_req, instantaneous_eq_false hc, if_neg Bool.false_ne_true]

/-- Settles O22: the frame handed over is its form's header framed, so its length is the form's and its end the header's
checksum. -/
theorem builtFramesPassTheCheck : Obligations.BuiltFramesPassTheCheck := by
  intro i s t hi hb hexec
  obtain ⟨f, hf⟩ := requestTask_of_isBuilder hi
  obtain ⟨op, a, c, hserve⟩ := exec_eq_serve hf s
  rw [State.serve_build hb, hexec, Host.Outcome.next.injEq] at hserve
  subst hserve
  have hlen : (frame (f.header a c)).length = f.len := (length_frame _).trans (f.length_header a c).symm
  refine ⟨frame (f.header a c), s.nextTxAnswer, rfl, ?_, ?_, ?_, ?_, ?_⟩
  · rintro ⟨_, rfl⟩
    cases hf
    exact hlen
  · rintro ⟨_, _, rfl⟩
    cases hf
    exact hlen
  · rintro ⟨_, _, rfl | rfl⟩
    · cases hf
      exact hlen
    · cases hf
      exact hlen
  · rw [take_frame]
    exact getD_frame_low _
  · rw [take_frame]
    exact getD_frame_high _

end Sys2Proof.Machine
end

section
/-! PROOFS. The frame parser (O27 to O32, O45, O48): a framed response in a cleared RXBUF ends the read on the success
path, whether it stands on the stream or arrives later, and decodes to the fields it was made of; an RDVAL starts with
nine sentinels and writes its own channel only when it succeeds (42_frame_parser.md R150 to R161). -/

namespace Sys2Proof.Machine

/-! ## A framed response ends the read (R150) -/

/-- A zero status byte passes CHKRDY's second check (R151). -/
theorem deviceReady_ack (x : Byte) :
    deviceReady .chkrdy (Memory.cleared.store 0 (frame [x, 0x00#8])) = true := by
  rw [deviceReady, Memory.read_fresh]
  rfl

/-! RDVAL and RDENERGY have no second check (R153, R158). -/

theorem deviceReady_rdval (ch : Channel) (m : Memory) : deviceReady (.rdval ch) m = true := rfl

theorem deviceReady_rdenergy (m : Memory) : deviceReady .rdenergy m = true := rfl

section
variable {p : Parser} {s : State} {h : List Byte} {rest : List RxItem}

/-- The first read answered by a frame whose second check passes too. -/
theorem State.continueRead_frame (hlen : h.length + 2 = p.readLen)
    (hready : deviceReady p (Memory.cleared.store 0 (frame h)) = true) (hbuf : s.rxBuf = Memory.cleared)
    (hrx : s.rx = onStream (frame h) ++ rest) :
    s.continueRead p =
      { s with rx := rest, rxBuf := Memory.cleared.store 0 (frame h), acc := crc16 h }.succeed p := by
  have hframe : (frame h).length = p.readLen := (length_frame h).trans hlen
  have hcovered : (frame h).take (p.readLen - 2) = h := by rw [← hframe, take_frame]
  have htake : rxTake p.readLen s.rx = .got (frame h) rest := by
    rw [hrx, ← hframe]
    exact rxTake_bytes (frame h) rest
  rw [State.continueRead_got htake, State.receive_eq (s := { s with rx := rest }) hbuf _ _ hframe, hcovered]
  refine State.conclude_success hlen ?_ ?_ hready
  · rfl
  · rfl

/-- A parser request at an idle engine whose response stands on the stream. -/
theorem exec_parser_frame {i : Instr} {op : BitVec 3} {a c : Byte} (hb : s.busy = false)
    (hi : parserRequest s.params i = some (p, op, a, c)) (hlen : h.length + 2 = p.readLen)
    (hready : deviceReady p (Memory.cleared.store 0 (frame h)) = true) (hrx : s.rx = onStream (frame h) ++ rest) :
    exec i s = .next
      ({ (s.accept op a c).startParser p with
         rx := rest, rxBuf := Memory.cleared.store 0 (frame h), acc := crc16 h }.succeed p) := by
  rw [exec_parser hb hi, State.runParser,
    State.continueRead_frame (s := (s.accept op a c).startParser p) hlen hready (State.startParser_rxBuf p _)
      ((State.startParser_rx p _).trans hrx)]

/-- A response that arrives whole at an operation blocked on an empty stream. -/
theorem State.deliver_frame (hw : s.wait = .read p) (hlen : h.length + 2 = p.readLen)
    (hready : deviceReady p (Memory.cleared.store 0 (frame h)) = true) (hbuf : s.rxBuf = Memory.cleared)
    (hrx : s.rx = []) :
    s.deliver (onStream (frame h)) =
      { s with rxBuf := Memory.cleared.store 0 (frame h), acc := crc16 h }.succeed p := by
  have hall : s.rx ++ onStream (frame h) = onStream (frame h) ++ s.rx := by rw [hrx, List.append_nil, List.nil_append]
  rw [State.deliver_read hw,
    State.continueRead_frame (s := { s with rx := s.rx ++ onStream (frame h) }) hlen hready hbuf hall]
end

/-! ## The decoded fields (R92, R153, R156, R158) -/

/-- A field's three bytes in a fresh buffer are those of the stored sequence. -/
theorem fieldAt_fresh (bytes : List Byte) (shift phase : Nat) :
    fieldAt (Memory.cleared.store 0 bytes) shift phase =
      { b0 := bytes.getD (3 * phase + shift + 1) 0x00#8, b1 := bytes.getD (3 * phase + shift + 2) 0x00#8
        b2 := bytes.getD (3 * phase + shift + 3) 0x00#8 } := by
  simp only [fieldAt, Memory.read_fresh]

section
variable (x : Byte) (sk f0 f1 f2 : Field3)

theorem length_meas12 {ch : Channel} (hch : ch ≠ .P) :
    ([x] ++ fieldBytes f0 ++ fieldBytes f1 ++ fieldBytes f2).length + 2 = (Parser.rdval ch).readLen := by
  cases ch with
  | P => exact absurd rfl hch
  | V | I => rfl

/-- F-MEAS12 decodes to its three fields (R154, R155). -/
theorem decodedPhases_meas12 {ch : Channel} (hch : ch ≠ .P) :
    decodedPhases ch (Memory.cleared.store 0 (frame ([x] ++ fieldBytes f0 ++ fieldBytes f1 ++ fieldBytes f2))) =
      { p0 := 0x00#8 ++ f0.b0 ++ f0.b2 ++ f0.b1, p1 := 0x00#8 ++ f1.b0 ++ f1.b2 ++ f1.b1
        p2 := 0x00#8 ++ f2.b0 ++ f2.b2 ++ f2.b1 } := by
  cases ch with
  | P => exact absurd rfl hch
  | V | I =>
    simp only [decodedPhases, fieldAt_fresh, fieldDec24, toSlot_dec24]
    rfl

/-- F-MEAS15 decodes to the three fields behind the skipped one (R156). -/
theorem decodedPhases_meas15 :
    decodedPhases .P
        (Memory.cleared.store 0 (frame ([x] ++ fieldBytes sk ++ fieldBytes f0 ++ fieldBytes f1 ++ fieldBytes f2))) =
      { p0 := toSlot (fieldDec24p f0), p1 := toSlot (fieldDec24p f1), p2 := toSlot (fieldDec24p f2) } := by
  simp only [decodedPhases, fieldAt_fresh]
  rfl
end

/-- The counter that RDENERGY decodes from a buffer (R158). -/
def decodedEnergy (m : Memory) : Word32 := dec32 (m.read 1) (m.read 2) (m.read 3) (m.read 4)

theorem State.successValue_rdenergy (s : State) :
    s.successValue .rdenergy = { s with energy := decodedEnergy s.rxBuf } := rfl

section
variable (x e1 e2 e3 e4 : Byte)

theorem length_energy {others : List Byte} (h : others.length = 12) :
    ([x, e1, e2, e3, e4] ++ others).length + 2 = Parser.rdenergy.readLen := by
  rw [List.length_append, h]
  rfl

/-- F-ENERGY decodes to its first four bytes behind index 0, word-swapped (R158). -/
theorem decodedEnergy_energy (others : List Byte) :
    decodedEnergy (Memory.cleared.store 0 (frame ([x, e1, e2, e3, e4] ++ others))) = e2 ++ e1 ++ e4 ++ e3 := by
  simp only [decodedEnergy, Memory.read_fresh]
  rfl
end

/-- DEC24P as a number: the low nibble of the top byte kept, the quotient by 100 (R181). -/
theorem dec24p_toNat (b0 b1 b2 : Byte) :
    (dec24p b0 b1 b2).toNat = ((b0.toNat % 16) * 0x10000 + b2.toNat * 0x100 + b1.toNat) / 100 := by
  have hfits : (dec24 (b0 &&& powerMask) b1 b2).toNat / powerDiv < 2 ^ 24 :=
    (Nat.div_le_self _ _).trans_lt (dec24 (b0 &&& powerMask) b1 b2).isLt
  rw [dec24p, BitVec.toNat_ofNat, Nat.mod_eq_of_lt hfits, dec24, toNat_append3, powerMask_and]

/-- A power field in its slot. -/
theorem toSlot_fieldDec24p_toNat (f : Field3) :
    (toSlot (fieldDec24p f)).toNat = ((f.b0.toNat % 16) * 0x10000 + f.b2.toNat * 0x100 + f.b1.toNat) / 100 := by
  rw [toSlot, BitVec.toNat_setWidth_of_le (by decide), fieldDec24p, dec24p_toNat]

/-! ## The success path of RDVAL and RDENERGY (R153, R158) -/

section
variable {s : State} {h : List Byte} {rest : List RxItem} {ch : Channel} {ph : Phases} {v : Word32}

/-- An RDVAL at an idle engine whose response stands on the stream: its channel over nine sentinels. -/
theorem exec_rdval_frame {i : Instr} {op : BitVec 3} {a c : Byte} (hb : s.busy = false)
    (hi : parserRequest s.params i = some (.rdval ch, op, a, c)) (hlen : h.length + 2 = (Parser.rdval ch).readLen)
    (hrx : s.rx = onStream (frame h) ++ rest) (hph : decodedPhases ch (Memory.cleared.store 0 (frame h)) = ph) :
    exec i s = .next
      { s with
        op := op, addr := a, cmd := c, busy := false, wait := .none, status := stOk
        triple := Triple.sentinel.set ch ph, rxBuf := Memory.cleared.store 0 (frame h), acc := crc16 h, rx := rest
        history := s.history ++ [.rx (Parser.rdval ch).readLen] } := by
  rw [exec_parser_frame hb hi hlen (deviceReady_rdval ch _) hrx, ← hph]
  rfl

/-- The response of a blocked RDVAL: its channel written, the other two kept. -/
theorem State.deliver_rdval_frame (hw : s.wait = .read (.rdval ch)) (hlen : h.length + 2 = (Parser.rdval ch).readLen)
    (hbuf : s.rxBuf = Memory.cleared) (hrx : s.rx = [])
    (hph : decodedPhases ch (Memory.cleared.store 0 (frame h)) = ph) :
    s.deliver (onStream (frame h)) =
      { s with
        triple := s.triple.set ch ph, status := stOk, busy := false, wait := .none
        rxBuf := Memory.cleared.store 0 (frame h), acc := crc16 h } := by
  rw [State.deliver_frame hw hlen (deviceReady_rdval ch _) hbuf hrx, ← hph]
  rfl

/-- RDENERGY at an idle engine whose response stands on the stream. -/
theorem exec_rdenergy_frame (a c : Byte) (hb : s.busy = false) (hlen : h.length + 2 = Parser.rdenergy.readLen)
    (hrx : s.rx = onStream (frame h) ++ rest) (hv : decodedEnergy (Memory.cleared.store 0 (frame h)) = v) :
    exec (.rdenergy a c) s = .next
      { s with
        op := opRdenergy, addr := a, cmd := c, busy := false, wait := .none, status := stOk, energy := v
        rxBuf := Memory.cleared.store 0 (frame h), acc := crc16 h, rx := rest
        history := s.history ++ [.rx Parser.rdenergy.readLen] } := by
  rw [exec_parser_frame hb rfl hlen (deviceReady_rdenergy _) hrx, State.succeed, State.successValue_rdenergy, ← hv]
  rfl

/-- The response of a blocked RDENERGY. -/
theorem State.deliver_rdenergy_frame (hw : s.wait = .read .rdenergy) (hlen : h.length + 2 = Parser.rdenergy.readLen)
    (hbuf : s.rxBuf = Memory.cleared) (hrx : s.rx = [])
    (hv : decodedEnergy (Memory.cleared.store 0 (frame h)) = v) :
    s.deliver (onStream (frame h)) =
      { s with
        energy := v, status := stOk, busy := false, wait := .none
        rxBuf := Memory.cleared.store 0 (frame h), acc := crc16 h } := by
  rw [State.deliver_frame hw hlen (deviceReady_rdenergy _) hbuf hrx, State.succeed, State.successValue_rdenergy, ← hv]
  rfl
end

/-! ## The other channels of an RDVAL (R157) -/

/-- An RDVAL's triple: all sentinel, or a success that wrote one channel over the nine sentinels. -/
def State.SentinelBut (ch : Channel) (t : State) : Prop :=
  t.triple = Triple.sentinel ∨ (t.succeeded = true ∧ ∃ ph, t.triple = Triple.sentinel.set ch ph)

section
variable {s : State} {ch : Channel}

theorem State.sentinelBut_succeed (h : s.triple = Triple.sentinel) : (s.succeed (.rdval ch)).SentinelBut ch :=
  .inr ⟨rfl, _, congrArg (Triple.set ch _) h⟩

theorem State.triple_continueDrain (h : s.triple = Triple.sentinel) (e : Cause) :
    (s.continueDrain e (.rdval ch)).triple = Triple.sentinel := by
  rcases State.continueDrain_cases e (.rdval ch) s with ⟨-, hd⟩ | ⟨rest, -, hd⟩ <;> rw [hd]
  · exact h
  · rfl

theorem State.sentinelBut_conclude (h : s.triple = Triple.sentinel) : (s.conclude (.rdval ch)).SentinelBut ch := by
  rcases State.conclude_eq (.rdval ch) s with ⟨e, -, hc⟩ | ⟨-, hc⟩ <;> rw [hc]
  · exact .inl (State.triple_continueDrain (s := s.callRx _) h e)
  · exact State.sentinelBut_succeed h

theorem State.sentinelBut_continueRead (h : s.triple = Triple.sentinel) :
    (s.continueRead (.rdval ch)).SentinelBut ch := by
  rcases State.continueRead_cases (.rdval ch) s with ⟨-, hc⟩ | ⟨rest, -, hc⟩ | ⟨bytes, rest, -, hc⟩ <;> rw [hc]
  · exact .inl h
  · exact .inl rfl
  · have hreceived : ({ s with rx := rest }.receive (Parser.rdval ch).readLen bytes).triple = Triple.sentinel := h
    exact State.sentinelBut_conclude hreceived

theorem State.SentinelBut.of_not_succeeded (h : s.SentinelBut ch) (hs : s.succeeded = false) :
    s.triple = Triple.sentinel := by
  rcases h with h | ⟨hs', -⟩
  · exact h
  · exact absurd (hs.symm.trans hs') Bool.false_ne_true

/-- Writing one channel keeps the other two, so they stay sentinel. -/
theorem State.SentinelBut.others (h : s.SentinelBut ch) :
    (ch ≠ .V → s.triple.v = Phases.sentinel) ∧ (ch ≠ .I → s.triple.i = Phases.sentinel) ∧
      (ch ≠ .P → s.triple.p = Phases.sentinel) := by
  rcases h with h | ⟨-, ph, h⟩ <;> rw [h]
  · exact ⟨fun _ => rfl, fun _ => rfl, fun _ => rfl⟩
  · cases ch with
    | V => exact ⟨fun hne => absurd rfl hne, fun _ => rfl, fun _ => rfl⟩
    | I => exact ⟨fun _ => rfl, fun hne => absurd rfl hne, fun _ => rfl⟩
    | P => exact ⟨fun _ => rfl, fun _ => rfl, fun hne => absurd rfl hne⟩
end

/-! ## The obligations -/

/-- Settles O32: each failure value is one field's update, by definition. -/
theorem failureValuesOfTheParsers : Obligations.FailureValuesOfTheParsers :=
  fun _ => ⟨rfl, fun _ => rfl, rfl⟩

/-- Settles O27: the framed acknowledgment passes both checks, and RXBUF is read back. -/
theorem chkrdyReportsReadiness : Obligations.ChkrdyReportsReadiness := fun _ _ x _ _ hb hrx =>
  ⟨_, exec_parser_frame hb rfl rfl (deviceReady_ack x) hrx, Memory.read_fresh _⟩

/-- Settles O28: F-MEAS12 decoded into the Voltage channel over nine sentinels, and the word's command CMD_VOLTAGE. -/
theorem rdvalVDecodesTheVoltages : Obligations.RdvalVDecodesTheVoltages := by
  refine ⟨fun a x b1 b2 b3 b4 b5 b6 b7 b8 b9 rest s hb hrx => ?_, fun p a => ?_, by decide +kernel, by decide,
    by decide, by decide⟩
  · have hphases := decodedPhases_meas12 x ⟨b1, b2, b3⟩ ⟨b4, b5, b6⟩ ⟨b7, b8, b9⟩ (ch := .V) nofun
    exact ⟨_, exec_rdval_frame hb rfl rfl hrx hphases, Memory.read_fresh _⟩
  · rw [decodeRequest_append, decodeFields_rdval, if_pos rfl]

/-- Settles O29: F-MEAS12 decoded into the Current channel over nine sentinels, and the word's command CMD_CURRENT. -/
theorem rdvalIDecodesTheCurrents : Obligations.RdvalIDecodesTheCurrents := by
  refine ⟨fun a x b1 b2 b3 b4 b5 b6 b7 b8 b9 rest s hb hrx => ?_, fun p a hne => ?_, by decide +kernel, by decide,
    by decide, by decide⟩
  · have hphases := decodedPhases_meas12 x ⟨b1, b2, b3⟩ ⟨b4, b5, b6⟩ ⟨b7, b8, b9⟩ (ch := .I) nofun
    exact ⟨_, exec_rdval_frame hb rfl rfl hrx hphases, Memory.read_fresh _⟩
  · rw [decodeRequest_append, decodeFields_rdval, if_neg hne, if_pos rfl]

/-- Settles O30: F-MEAS15 decoded into the Power channel over nine sentinels, its three quotients as numbers, and the
word's command CMD_POWER. -/
theorem rdvalPDecodesThePowers : Obligations.RdvalPDecodesThePowers := by
  refine ⟨fun a x y1 y2 y3 b1 b2 b3 b4 b5 b6 b7 b8 b9 rest s hb hrx => ?_, fun p a hp => ?_, by decide +kernel,
    by decide, by decide, by decide⟩
  · have hphases := decodedPhases_meas15 x ⟨y1, y2, y3⟩ ⟨b1, b2, b3⟩ ⟨b4, b5, b6⟩ ⟨b7, b8, b9⟩
    exact ⟨_, _, _, _, exec_rdval_frame hb rfl rfl hrx hphases, toSlot_fieldDec24p_toNat _,
      toSlot_fieldDec24p_toNat _, toSlot_fieldDec24p_toNat _, Memory.read_fresh _⟩
  · rw [decodeRequest_append, decodeFields_cmdPower hp]

/-- Settles O31: F-ENERGY decoded into ENERGY, and op 5 of the word. -/
theorem rdenergyDecodesTheCounter : Obligations.RdenergyDecodesTheCounter := by
  refine ⟨fun a c x e1 e2 e3 e4 others rest s hb hl hrx => ?_, fun p a c => ?_, by decide +kernel, by decide⟩
  · have hlen := length_energy x e1 e2 e3 e4 hl
    have henergy := decodedEnergy_energy x e1 e2 e3 e4 others
    exact ⟨_, exec_rdenergy_frame a c hb hlen hrx henergy, Memory.read_fresh _⟩
  · rw [decodeRequest_append, decodeFields_rdenergy]

/-- Settles O45: each response row delivers its framed bytes, which end the read of its own operation. -/
theorem responseFrameEndsTheWaitingRead : Obligations.ResponseFrameEndsTheWaitingRead := by
  intro s hbuf hrx
  refine ⟨fun x hw => ?_, fun ch x f0 f1 f2 hch hw => ?_, fun x sk f0 f1 f2 hw => ?_,
    fun x e1 e2 e3 e4 others hl hw => ?_⟩
  · exact ⟨_, congrArg _ (State.deliver_frame hw rfl (deviceReady_ack x) hbuf hrx), Memory.read_fresh _⟩
  · have hlen := length_meas12 x f0 f1 f2 hch
    have hphases := decodedPhases_meas12 x f0 f1 f2 hch
    exact ⟨_, _, rfl, congrArg _ (State.deliver_rdval_frame hw hlen hbuf hrx hphases), Memory.read_fresh _⟩
  · have hphases := decodedPhases_meas15 x sk f0 f1 f2
    exact ⟨_, _, _, rfl, toSlot_fieldDec24p_toNat _, toSlot_fieldDec24p_toNat _, toSlot_fieldDec24p_toNat _,
      congrArg _ (State.deliver_rdval_frame hw rfl hbuf hrx hphases), Memory.read_fresh _⟩
  · have hlen := length_energy x e1 e2 e3 e4 hl
    have henergy := decodedEnergy_energy x e1 e2 e3 e4 others
    exact ⟨_, _, rfl, congrArg _ (State.deliver_rdenergy_frame hw hlen hbuf hrx henergy), Memory.read_fresh _⟩

/-- Settles O48: an RDVAL starts with nine sentinels, over which only its success writes, and only its own channel. -/
theorem rdvalLeavesTheOtherChannelsSentinel : Obligations.RdvalLeavesTheOtherChannelsSentinel := by
  intro i ch op a c s hb hi
  have htriple := State.sentinelBut_continueRead (s := (s.accept op a c).startParser (.rdval ch)) (ch := ch) rfl
  exact ⟨_, exec_parser hb hi, htriple.of_not_succeeded, htriple.others⟩

end Sys2Proof.Machine
end

section
/-! PROOFS. The decoders (O40 to O43): a concatenation of bytes is one-to-one and onto, which makes DEC24 and DEC32
bijections; DEC24P is its number; each decoder row writes its result and nothing else (43_mixed_endian_decoder.md R180,
R181, R183, R184). -/

namespace Sys2Proof.Machine

/-! ## Concatenations of bytes (R184) -/

theorem append_byte_inj {n : Nat} {x y : BitVec n} {b c : Byte} : x ++ b = y ++ c ↔ x = y ∧ b = c := by
  constructor
  · intro h
    have hhigh := congrArg (BitVec.extractLsb' 8 n) h
    have hlow := congrArg (BitVec.extractLsb' 0 8) h
    rw [BitVec.extractLsb'_append_eq_left, BitVec.extractLsb'_append_eq_left] at hhigh
    rw [BitVec.extractLsb'_append_eq_right, BitVec.extractLsb'_append_eq_right] at hlow
    exact ⟨hhigh, hlow⟩
  · rintro ⟨rfl, rfl⟩
    rfl

theorem exists_append_byte {n : Nat} (v : BitVec (n + 8)) : ∃ (x : BitVec n) (b : Byte), x ++ b = v :=
  ⟨_, _, BitVec.extractLsb'_append_extractLsb'⟩

/-! ## DEC24 and DEC32 as bijections (R180, R183) -/

theorem dec24_inj {b0 b1 b2 c0 c1 c2 : Byte} :
    dec24 b0 b1 b2 = dec24 c0 c1 c2 ↔ b0 = c0 ∧ b1 = c1 ∧ b2 = c2 := by
  rw [dec24, dec24, append_byte_inj, append_byte_inj]
  tauto

theorem exists_dec24 (v : BitVec 24) : ∃ b0 b1 b2 : Byte, dec24 b0 b1 b2 = v := by
  obtain ⟨high, b1, rfl⟩ := exists_append_byte (n := 16) v
  obtain ⟨b0, b2, rfl⟩ := exists_append_byte (n := 8) high
  exact ⟨b0, b1, b2, rfl⟩

theorem dec32_inj {e1 e2 e3 e4 f1 f2 f3 f4 : Byte} :
    dec32 e1 e2 e3 e4 = dec32 f1 f2 f3 f4 ↔ e1 = f1 ∧ e2 = f2 ∧ e3 = f3 ∧ e4 = f4 := by
  rw [dec32, dec32, append_byte_inj, append_byte_inj, append_byte_inj]
  tauto

theorem exists_dec32 (v : Word32) : ∃ e1 e2 e3 e4 : Byte, dec32 e1 e2 e3 e4 = v := by
  obtain ⟨high, e3, rfl⟩ := exists_append_byte (n := 24) v
  obtain ⟨top, e4, rfl⟩ := exists_append_byte (n := 16) high
  obtain ⟨e2, e1, rfl⟩ := exists_append_byte (n := 8) top
  exact ⟨e1, e2, e3, e4, rfl⟩

/-! ## DEC24P (R181) -/

/-- The largest assembled value is 0x0FFFFF, so the largest quotient is 10485. -/
theorem dec24p_toNat_le (b0 b1 b2 : Byte) : (dec24p b0 b1 b2).toNat ≤ 10485 := by
  have h1 := b1.isLt
  have h2 := b2.isLt
  rw [dec24p_toNat]
  omega

/-- The high nibble of the top byte is masked away. -/
theorem dec24p_congr_low_nibble {b0 c0 : Byte} (h : b0.toNat % 16 = c0.toNat % 16) (b1 b2 : Byte) :
    dec24p b0 b1 b2 = dec24p c0 b1 b2 := by
  apply BitVec.eq_of_toNat_eq
  rw [dec24p_toNat, dec24p_toNat, h]

/-! ## The decoder rows, in every state (log 7, log 8) -/

section
variable (s : State)

theorem exec_dec24 (b0 b1 b2 : Byte) :
    exec (.dec24 b0 b1 b2) s = .next { s with decOut := toSlot (dec24 b0 b1 b2) } := rfl

theorem exec_dec24p (b0 b1 b2 : Byte) :
    exec (.dec24p b0 b1 b2) s = .next { s with decOut := toSlot (dec24p b0 b1 b2) } := rfl

theorem exec_dec32 (e1 e2 e3 e4 : Byte) :
    exec (.dec32 e1 e2 e3 e4) s = .next { s with decOut := dec32 e1 e2 e3 e4 } := rfl
end

/-! ## The obligations -/

/-- Settles O40: each row writes `decOut` alone; DEC24's value gets a zero byte above it, DEC24P's keeps its number. -/
theorem decoderRowsHandBackTheirResult : Obligations.DecoderRowsHandBackTheirResult := by
  intro b0 b1 b2 b3 s
  refine ⟨?_, ⟨_, exec_dec24p s b0 b1 b2, toSlot_fieldDec24p_toNat ⟨b0, b1, b2⟩⟩, exec_dec32 s b0 b1 b2 b3⟩
  rw [exec_dec24, toSlot_dec24]

/-- Settles O41: DEC24 is a concatenation of three bytes, so one-to-one and onto. -/
theorem dec24AssemblesTopLowMiddle : Obligations.Dec24AssemblesTopLowMiddle := by
  refine ⟨fun _ _ _ => rfl, fun b0 b1 b2 => toNat_append3 b0 b2 b1, fun v => ?_, by decide, by decide, by decide,
    by decide, by decide⟩
  obtain ⟨b0, b1, b2, rfl⟩ := exists_dec24 v
  exact ⟨b0, b1, b2, rfl, fun _ _ _ => dec24_inj.mp⟩

/-- Settles O42: DEC24P is its number, which bounds it and reads the low nibble of the top byte only. -/
theorem dec24pMasksAndDivides : Obligations.Dec24pMasksAndDivides :=
  ⟨fun b0 b1 b2 => ⟨dec24p_toNat b0 b1 b2, dec24p_toNat_le b0 b1 b2⟩,
    fun _ _ b1 b2 h => dec24p_congr_low_nibble h b1 b2, by decide, by decide, by decide, by decide, by decide, by decide⟩

/-- Settles O43: DEC32 is a concatenation of four bytes, so one-to-one and onto. -/
theorem dec32SwapsTheWords : Obligations.Dec32SwapsTheWords := by
  refine ⟨fun _ _ _ _ => rfl, fun e1 e2 e3 e4 => toNat_append4 e2 e1 e4 e3, fun v => ?_, by decide, by decide,
    by decide, by decide⟩
  obtain ⟨e1, e2, e3, e4, rfl⟩ := exists_dec32 v
  exact ⟨e1, e2, e3, e4, rfl, fun _ _ _ _ => dec32_inj.mp⟩

end Sys2Proof.Machine
end

section
/-! PROOFS. Errors, the drain and the hang (O12, O33 to O36), and the illegal requests (O38, O39): a rejected response
is one drain read away from its end, whichever check rejected it, and a failed call or an unanswered read issues no
drain (60_exceptions.md R205 to R209, R213; 42_frame_parser.md R150, R160). -/

namespace Sys2Proof.Machine

/-! ## Rejected responses (R160, R205, R206) -/

/-- A response is rejected for `e`: every state that holds its bytes and the checksum of the covered ones goes into the
drain of `e`. -/
def RejectedFor (p : Parser) (bytes : List Byte) (e : Cause) : Prop :=
  ∀ t : State, t.rxBuf = Memory.cleared.store 0 bytes → t.acc = crc16 (bytes.take (p.readLen - 2)) →
    t.conclude p = (t.callRx p.drainLen).continueDrain e p

theorem rejectedFor_wrongTrailer {p : Parser} {bytes : List Byte} (hl : bytes.length = p.readLen)
    (hw : bytes ≠ frame (bytes.take (p.readLen - 2))) : RejectedFor p bytes .checksumMismatch :=
  fun _ hbuf hacc => State.conclude_mismatch hl hbuf hacc hw

/-- A non-zero status byte fails CHKRDY's second check (R151). -/
theorem deviceReady_ack_eq_false {status : Byte} (h : status ≠ 0x00#8) (x : Byte) :
    deviceReady .chkrdy (Memory.cleared.store 0 (frame [x, status])) = false := by
  rw [deviceReady, Memory.read_fresh]
  exact beq_eq_false_iff_ne.2 h

/-- The right trailer passes the first check, so the status byte decides (R211). -/
theorem rejectedFor_statusByte {status : Byte} (h : status ≠ 0x00#8) (x : Byte) :
    RejectedFor .chkrdy (frame [x, status]) .deviceStatusError := by
  intro t hbuf hacc
  have htrailer : trailerMatches t.rxBuf Parser.chkrdy.readLen t.acc = true := by
    rw [hbuf, hacc]
    exact (trailerMatches_iff (frame [x, status]) Parser.chkrdy.readLen rfl (by decide)).2 rfl
  have hready : deviceReady .chkrdy t.rxBuf = false := hbuf ▸ deviceReady_ack_eq_false h x
  rcases State.conclude_cases .chkrdy t with ⟨hmismatch, -⟩ | ⟨-, -, hdrain⟩ | ⟨-, hpass, -⟩
  · exact absurd (htrailer.symm.trans hmismatch) (by decide)
  · exact hdrain
  · exact absurd (hready.symm.trans hpass) (by decide)

/-- A stream that answers a drain of `n`, with bytes or by a failure. -/
theorem ReadLeaves.of_answer {n : Nat} {r rest : List RxItem}
    (h : (∃ ds, ds.length = n ∧ r = onStream ds ++ rest) ∨
      (∃ ds, ds.length < n ∧ r = onStream ds ++ .fail :: rest)) : ReadLeaves n r rest := by
  rcases h with ⟨ds, hl, rfl⟩ | ⟨ds, hl, rfl⟩
  · exact .of_bytes hl
  · exact .of_failure hl

section
variable {i : Instr} {p : Parser} {op : BitVec 3} {a c : Byte} {s : State}

/-- A parser request whose first read is answered and rejected, with its drain issued: two reads, and the failure value
in the result register. -/
def State.drainIssued (p : Parser) (op : BitVec 3) (a c : Byte) (bytes : List Byte) (rest : List RxItem) (s : State) :
    State :=
  ({ s with
     op := op, addr := a, cmd := c, busy := true, rxBuf := Memory.cleared.store 0 bytes
     acc := crc16 (bytes.take (p.readLen - 2)), rx := rest
     history := s.history ++ [.rx p.readLen, .rx p.readLen] } : State).failureValue (.parser p)

section
variable {e : Cause} {bytes : List Byte} {rest : List RxItem}

@[simp] theorem State.drainIssued_rx : (s.drainIssued p op a c bytes rest).rx = rest := by cases p <;> rfl

variable (hb : s.busy = false) (hi : parserRequest s.params i = some (p, op, a, c)) (hl : bytes.length = p.readLen)
  (hrx : s.rx = onStream bytes ++ rest) (he : RejectedFor p bytes e)
include hb hi hl hrx he

theorem exec_rejected : exec i s = .next ((s.drainIssued p op a c bytes rest).continueDrain e p) := by
  have hreads : s.history ++ [.rx p.readLen, .rx p.readLen] = s.history ++ [.rx p.readLen] ++ [.rx p.readLen] :=
    List.append_cons ..
  rw [exec_parser hb hi, State.runParser_got (s := s.accept op a c) hl hrx, he _ rfl rfl, State.drainIssued, hreads]
  rcases p with _ | ch | _ <;> rfl

/-- The drain answered, with bytes or by a failure: the recovery ends the operation (R212). -/
theorem exec_rejected_answered {rest' : List RxItem} (hr : ReadLeaves p.drainLen rest rest') :
    exec i s = .next
      (({ s with
         op := op, addr := a, cmd := c, busy := false, wait := .none, status := e.code
         rxBuf := Memory.cleared.store 0 bytes, acc := crc16 (bytes.take (p.readLen - 2)), rx := rest'
         history := s.history ++ [.rx p.readLen, .rx p.readLen] } : State).failureValue (.parser p)) := by
  have hdrain : ReadLeaves p.drainLen (s.drainIssued p op a c bytes rest).rx rest' := by
    rwa [State.drainIssued_rx]
  rw [exec_rejected hb hi hl hrx he, State.continueDrain_answered hdrain, State.recover_parser]
  rcases p with _ | ch | _ <;> rfl

/-- The drain not answered: the engine stays busy in it (R213). -/
theorem exec_rejected_silent {ds : List Byte} (hds : ds.length < p.drainLen) (hrest : rest = onStream ds) :
    exec i s = .next
      (({ s with
         op := op, addr := a, cmd := c, busy := true, wait := .drain p e
         rxBuf := Memory.cleared.store 0 bytes, acc := crc16 (bytes.take (p.readLen - 2)), rx := rest
         history := s.history ++ [.rx p.readLen, .rx p.readLen] } : State).failureValue (.parser p)) := by
  have hdrain : rxTake p.drainLen (s.drainIssued p op a c bytes rest).rx = .silent := by
    rw [State.drainIssued_rx, hrest]
    exact rxTake_silent ds _ hds
  rw [exec_rejected hb hi hl hrx he, State.continueDrain_silent hdrain]
  rcases p with _ | ch | _ <;> rfl
end

/-! ## A first read that fails or is not answered (R207, R213) -/

theorem exec_parser_failed {lost : List Byte} {rest : List RxItem} (hb : s.busy = false)
    (hi : parserRequest s.params i = some (p, op, a, c)) (hl : lost.length < p.readLen)
    (hrx : s.rx = onStream lost ++ .fail :: rest) :
    exec i s = .next
      (({ s with
         op := op, addr := a, cmd := c, busy := false, wait := .none, status := stTransportFailure
         rxBuf := Memory.cleared, rx := rest, history := s.history ++ [.rx p.readLen] } : State).failureValue
        (.parser p)) := by
  rw [exec_parser hb hi, State.runParser_failed (s := s.accept op a c) hl hrx, State.recover_parser]
  rcases p with _ | ch | _ <;> rfl

theorem exec_parser_silent {pending : List Byte} (hb : s.busy = false)
    (hi : parserRequest s.params i = some (p, op, a, c)) (hl : pending.length < p.readLen)
    (hrx : s.rx = onStream pending) :
    exec i s = .next
      (({ s with
         op := op, addr := a, cmd := c, busy := true, wait := .read p, rxBuf := Memory.cleared
         history := s.history ++ [.rx p.readLen] } : State).failureValue (.parser p)) := by
  rw [exec_parser hb hi, State.runParser_silent (s := s.accept op a c) hl hrx]
  rcases p with _ | ch | _ <;> rfl
end

/-! ## The hang (R213) -/

theorem rxSilent_short {pending : List Byte} {n : Nat} (h : pending.length < n) :
    rxSilent n (onStream pending) = true := by
  rw [rxSilent, beq_iff_eq]
  exact rxTake_silent pending n h

/-- A read and a drain left short are stuck alike: a drain asks for the operation's own count (R160). -/
theorem State.stuck_short {s : State} {p : Parser} {pending : List Byte}
    (hw : s.wait = .read p ∨ ∃ e, s.wait = .drain p e) (hrx : s.rx = onStream pending)
    (hl : pending.length < p.readLen) : s.stuck = true := by
  have hsilent : rxSilent p.readLen s.rx = true := hrx ▸ rxSilent_short hl
  rcases hw with hw | ⟨e, hw⟩
  · simp only [State.stuck, hw, hsilent]
  · simp only [State.stuck, hw, Parser.drainLen, hsilent]

/-! ## Illegal requests (R208, R209) -/

theorem reservedOp_iff {op : BitVec 3} : reservedOp op = true ↔ op = 0#3 ∨ op = 6#3 ∨ op = 7#3 := by
  simp only [reservedOp, Bool.or_eq_true, beq_iff_eq, or_assoc]

section
variable {s : State}

theorem exec_illegalOperation (hb : s.busy = false) (op : BitVec 3) (a c : Byte) :
    exec (.illegalOperation op a c) s =
      .next { s with op := op, addr := a, cmd := c, busy := false, wait := .none, status := stIllegalOperation } :=
  congrArg Host.Outcome.next (State.serve_idle hb op a c .illegalOperation)

theorem exec_illegalOperand (hb : s.busy = false) (a c : Byte) :
    exec (.illegalOperand a c) s =
      .next
        { s with
          op := opRdval, addr := a, cmd := c, busy := false, wait := .none, status := stIllegalOperand
          triple := Triple.sentinel } :=
  congrArg Host.Outcome.next (State.serve_idle hb opRdval a c .illegalOperand)
end

/-! ## The obligations -/

/-- Settles O33: a wrong trailer rejects the response, and its drain is answered or not. -/
theorem wrongTrailerDrainsAndFails : Obligations.WrongTrailerDrainsAndFails := by
  intro i p op a c bs rest s hb hi hl hw hrx
  have hrejected := rejectedFor_wrongTrailer hl hw
  refine ⟨_, Memory.read_fresh bs, fun rest' hanswer => ?_, fun ds hds hrest => ?_⟩
  · exact exec_rejected_answered hb hi hl hrx hrejected (ReadLeaves.of_answer hanswer)
  · exact exec_rejected_silent hb hi hl hrx hrejected hds hrest

/-- Settles O34: a non-zero status byte rejects the framed acknowledgment, and its drain is answered or not. -/
theorem nonZeroStatusDrainsAndFails : Obligations.NonZeroStatusDrainsAndFails := by
  intro a c x status rest s hb hstatus hrx
  have hrejected := rejectedFor_statusByte hstatus x
  refine ⟨_, Memory.read_fresh (frame [x, status]), fun rest' hanswer => ?_, fun ds hds hrest => ?_⟩
  · exact exec_rejected_answered hb rfl rfl hrx hrejected (ReadLeaves.of_answer hanswer)
  · exact exec_rejected_silent hb rfl rfl hrx hrejected hds hrest

/-- Settles O35: a failed first read is recovered from at once, and a failed write is a builder's one end with it. -/
theorem transportFailureIsReportedWithoutADrain : Obligations.TransportFailureIsReportedWithoutADrain := by
  refine ⟨fun i p op a c lost rest s hb hi hl hrx => exec_parser_failed hb hi hl hrx, fun i s more hb hi htx => ?_⟩
  obtain ⟨f, hf⟩ := requestTask_of_isBuilder hi
  obtain ⟨op, a, c, hexec⟩ := exec_eq_serve hf s
  rw [State.serve_build hb, State.nextTxAnswer_cons htx] at hexec
  exact ⟨_, hexec, rfl, rfl, rfl, rfl, rfl, rfl, rfl, _, rfl⟩

/-- Settles O36: the unanswered first read of a started operation. -/
theorem unansweredReadLeavesTheEngineBusy : Obligations.UnansweredReadLeavesTheEngineBusy := by
  intro i p op a c pending s hb hi hl hrx
  exact exec_parser_silent hb hi hl hrx

/-- Settles O12: the engine is stuck, and no input is left. -/
theorem hungEngineIsStuckByName : Obligations.HungEngineIsStuckByName := by
  intro s p pending hinputs hrx hl hw
  exact step_nil_stuck hinputs (State.stuck_short hw hrx hl)

/-- Settles O38: the request's task writes its code only, and the word's op is reserved. -/
theorem reservedCodeOnlyWritesStatus : Obligations.ReservedCodeOnlyWritesStatus := by
  refine ⟨fun op a c s hb _ => exec_illegalOperation hb op a c, fun p op a c hop => ?_⟩
  rw [decodeRequest_append, decodeFields_reserved p a c (reservedOp_iff.2 hop)]

/-- Settles O39: the request's task writes nine sentinels and its code, and the word's command names no channel. -/
theorem unknownChannelClearsTheTriple : Obligations.UnknownChannelClearsTheTriple := by
  refine ⟨fun a c s hb _ _ _ => exec_illegalOperand hb a c, fun p a c hv hc hp => ?_⟩
  rw [decodeRequest_append, decodeFields_noChannel (Params.noChannel_iff.2 ⟨hv, hc, hp⟩)]

end Sys2Proof.Machine
end

section
/-! PROOFS. The reset input and the busy engine (O2, O11, O55): a reset leaves of a state what is outside the block, so
an abandoned operation is known by the point it stands at and by what it has done outside (70_reset_and_hazards.md R240
to R242, R246). -/

namespace Sys2Proof.Machine

/-- Settles O2: the move of the reset input is the block's reset. -/
theorem resetInputRestoresTheBlockOnly : Obligations.ResetInputRestoresTheBlockOnly :=
  fun _ _ h => step_cons h

/-! ## A busy engine (R246) -/

theorem exec_request_busy {i : Instr} {s : State} (hb : s.busy = true) (hi : isRequest i = true) :
    exec i s = .next s := by
  rw [isRequest_eq] at hi
  obtain ⟨task, htask⟩ := Option.isSome_iff_exists.1 hi
  obtain ⟨op, a, c, hexec⟩ := exec_eq_serve htask s
  rw [hexec, State.serve_busy hb]

theorem exec_crc16_busy {s : State} (hb : s.busy = true) (m : List Byte) : exec (.crc16 m) s = .next s :=
  congrArg Host.Outcome.next (if_pos hb)

/-- Settles O11: a busy engine serves no request and no message, so a step only takes it off the list. -/
theorem requestToABusyEngineIsLost : Obligations.RequestToABusyEngineIsLost := by
  refine ⟨fun i s hb hi => exec_request_busy hb hi, fun m s hb => exec_crc16_busy hb m, fun s w rest hb hi => ?_,
    fun s m rest hb hi => ?_⟩
  · rw [step_cons hi, State.move_request_busy (s := { s with inputs := rest }) hb]
  · rw [step_cons hi, State.move_message_busy (s := { s with inputs := rest }) hb]

/-! ## What a reset leaves (R240, R241) -/

theorem steps_cons {s : State} {i : Input} {rest : List Input} (h : s.inputs = i :: rest) (k : Nat) :
    steps (k + 1) s = steps k ({ s with inputs := rest }.move i) := by simp only [steps, step_cons h]

/-- Acceptance writes the block only (R21). -/
theorem State.resetBlock_enter (w : RequestWord) (s : State) : (s.enter w).resetBlock = s.resetBlock := by
  cases hb : s.busy with
  | true => rw [State.enter_busy hb]
  | false =>
    obtain ⟨t, ht⟩ := requestTask_decodeRequest s.params w
    rw [State.enter_idle hb ht]
    rfl

/-- The start of a parser operation issues its read and writes nothing else outside the block (R150). -/
theorem State.resetBlock_startParser (p : Parser) (s : State) :
    (s.startParser p).resetBlock = (s.callRx p.readLen).resetBlock := by
  rcases p with _ | ch | _ <;> rfl

/-- A reset as the one input served leaves the block reset and what was outside it. -/
theorem steps_reset {t u : State} {rest : List Input} (h : t.resetBlock = u.resetBlock)
    (hi : u.inputs = .reset :: rest) : steps 1 t = some { u with inputs := rest }.resetBlock := by
  have hinputs : t.inputs = .reset :: rest := (congrArg State.inputs h).trans hi
  have hreset : { t with inputs := rest }.resetBlock = { u with inputs := rest }.resetBlock :=
    congrArg (fun b : State => { b with inputs := rest }) h
  rw [steps_cons hinputs]
  exact congrArg some hreset

/-! ## The points of a parser operation (log 14) -/

/-- The engine stands at the point `w`, and what is outside the block is as in `u`. -/
structure State.StandsAt (t : State) (w : Wait) (u : State) : Prop where
  wait : t.wait = w
  outside : t.resetBlock = u.resetBlock

theorem requestTask_of_parserRequest {ps : Params} {i : Instr} {p : Parser} {op : BitVec 3} {a c : Byte}
    (h : parserRequest ps i = some (p, op, a, c)) : requestTask i = some (.parse p) := by
  cases i <;> cases h <;> rfl

/-- A response with a wrong trailer, or an acknowledgment with a non-zero status byte, has an error for its verdict
(R205, R206). -/
theorem State.exists_verdict {t : State} {p : Parser} {bs : List Byte} (hl : bs.length = p.readLen)
    (hbuf : t.rxBuf = Memory.cleared.store 0 bs) (hacc : t.acc = crc16 (bs.take (p.readLen - 2)))
    (hbad : bs ≠ frame (bs.take (p.readLen - 2)) ∨ (p = .chkrdy ∧ bs.getD 1 0x00#8 ≠ 0x00#8)) :
    ∃ e, t.verdict p = some e := by
  rcases State.verdict_cases p t with ⟨-, hv⟩ | ⟨-, -, hv⟩ | ⟨htrailer, hready, -⟩
  · exact ⟨_, hv⟩
  · exact ⟨_, hv⟩
  · rw [hbuf, hacc, trailerMatches_iff bs p.readLen hl p.two_le_readLen] at htrailer
    rcases hbad with hwrong | ⟨rfl, hstatus⟩
    · exact absurd htrailer hwrong
    · rw [hbuf, deviceReady, Memory.read_fresh] at hready
      exact absurd (beq_iff_eq.1 hready) hstatus

theorem State.judge_rejected {t : State} {p : Parser} {e : Cause} (h : t.verdict p = some e) :
    t.judge p = { t with wait := .rejected p e } := by simp only [State.judge, h]

section
variable {t u : State} {w : Wait} {p : Parser} {rest : List Input}

theorem State.StandsAt.inputs (h : t.StandsAt w u) : t.inputs = u.inputs := by
  simpa using congrArg State.inputs h.outside

theorem State.StandsAt.rx (h : t.StandsAt w u) : t.rx = u.rx := by
  simpa using congrArg State.rx h.outside

theorem State.StandsAt.setInputs (h : t.StandsAt w u) (inputs : List Input) :
    { t with inputs := inputs }.StandsAt w { u with inputs := inputs } :=
  ⟨h.wait, congrArg (fun b : State => { b with inputs := inputs }) h.outside⟩

theorem State.StandsAt.steps_advance (h : t.StandsAt w u) (hi : u.inputs = .advance :: rest) (k : Nat) :
    steps (k + 1) t = steps k { t with inputs := rest }.advance :=
  steps_cons (h.inputs.trans hi) k

theorem State.StandsAt.issueRead (h : t.StandsAt (.accepted (.parse p)) u) :
    t.advance.StandsAt (.read p) (u.callRx p.readLen) ∧ t.advance.rxBuf = Memory.cleared := by
  have hmove : t.advance = { t.startParser p with wait := .read p } := by
    simp only [State.advance, h.wait, State.firstMove]
  have hcall : (t.callRx p.readLen).resetBlock = (u.callRx p.readLen).resetBlock :=
    congrArg (State.callRx p.readLen) h.outside
  rw [hmove]
  exact ⟨⟨rfl, (State.resetBlock_startParser p t).trans hcall⟩, State.startParser_rxBuf p t⟩

theorem State.StandsAt.reject {bs : List Byte} {later : List RxItem} (h : t.StandsAt (.read p) u)
    (hclear : t.rxBuf = Memory.cleared) (hrx : u.rx = onStream bs ++ later) (hl : bs.length = p.readLen)
    (hbad : bs ≠ frame (bs.take (p.readLen - 2)) ∨ (p = .chkrdy ∧ bs.getD 1 0x00#8 ≠ 0x00#8)) :
    ∃ e, t.advance.StandsAt (.rejected p e) { u with rx := later } := by
  have htake : rxTake p.readLen t.rx = .got bs later := by
    rw [h.rx, hrx, ← hl]
    exact rxTake_bytes bs later
  have hmove : t.advance = ({ t with rx := later }.receive p.readLen bs).judge p := by
    simp only [State.advance, h.wait, State.readMove, htake]
  have hreceive := State.receive_eq (s := { t with rx := later }) hclear p.readLen bs hl
  obtain ⟨e, he⟩ := State.exists_verdict hl (congrArg State.rxBuf hreceive) (congrArg State.acc hreceive) hbad
  rw [hmove, State.judge_rejected he]
  exact ⟨e, rfl, congrArg (fun b : State => { b with rx := later }) h.outside⟩

theorem State.StandsAt.issueDrain {e : Cause} (h : t.StandsAt (.rejected p e) u) :
    t.advance.StandsAt (.drain p e) (u.callRx p.drainLen) := by
  have hmove : t.advance = { t.callRx p.drainLen with wait := .drain p e } := by simp only [State.advance, h.wait]
  rw [hmove]
  exact ⟨rfl, congrArg (State.callRx p.drainLen) h.outside⟩
end

/-! ## The moves that lead to each point -/

section
variable {s : State} {w : RequestWord} {p : Parser} {op : BitVec 3} {a c : Byte} {rest : List Input}
  (hb : s.busy = false) (hp : parserRequest s.params (decodeRequest s.params w) = some (p, op, a, c))
include hb hp

/-- Accepted and moved once, a parser request has issued its read and taken no byte (R150). -/
theorem steps_enter_advance (hi : s.inputs = .enter w :: .advance :: rest) (k : Nat) :
    ∃ t, steps (k + 2) s = steps k t ∧ t.rxBuf = Memory.cleared ∧
      t.StandsAt (.read p) { s with inputs := rest, history := s.history ++ [.rx p.readLen] } := by
  have haccepted : ({ s with inputs := .advance :: rest }.enter w).StandsAt (.accepted (.parse p))
      { s with inputs := .advance :: rest } := by
    refine ⟨?_, State.resetBlock_enter w _⟩
    rw [State.enter_idle (s := { s with inputs := .advance :: rest }) hb (requestTask_of_parserRequest hp)]
  obtain ⟨hread, hclear⟩ := (haccepted.setInputs rest).issueRead
  exact ⟨_, (steps_cons hi (k + 1)).trans (haccepted.steps_advance rfl k), hclear, hread⟩

/-- Moved once more, it has taken the bytes of a rejected response and issued no drain (R205, R206). -/
theorem steps_enter_advance_advance {bs : List Byte} {later : List RxItem} (hrx : s.rx = onStream bs ++ later)
    (hl : bs.length = p.readLen)
    (hbad : bs ≠ frame (bs.take (p.readLen - 2)) ∨ (p = .chkrdy ∧ bs.getD 1 0x00#8 ≠ 0x00#8))
    (hi : s.inputs = .enter w :: .advance :: .advance :: rest) (k : Nat) :
    ∃ e t, steps (k + 3) s = steps k t ∧
      t.StandsAt (.rejected p e) { s with inputs := rest, rx := later, history := s.history ++ [.rx p.readLen] } := by
  obtain ⟨t, hsteps, hclear, hread⟩ := steps_enter_advance hb hp hi (k + 1)
  obtain ⟨e, hrejected⟩ := (hread.setInputs rest).reject hclear hrx hl hbad
  exact ⟨e, _, hsteps.trans (hread.steps_advance rfl k), hrejected⟩
end

/-- Settles O55: at each point the outside world is the idle state's with the calls issued and the bytes taken so far,
and a reset leaves that. -/
theorem resetAbandonsAtThePointReached : Obligations.ResetAbandonsAtThePointReached := by
  intro w s rest hb
  refine ⟨fun hi => ?_, fun p op a c hp => ⟨fun hi => ?_, fun bs later hrx hl hbad =>
    ⟨fun hi => ?_, fun hi => ?_⟩⟩⟩
  · have hentered := State.resetBlock_enter w { s with inputs := .reset :: rest }
    exact (steps_cons hi 1).trans (steps_reset hentered rfl)
  · obtain ⟨t, hsteps, -, hread⟩ := steps_enter_advance hb hp hi 1
    exact hsteps.trans (steps_reset hread.outside rfl)
  · obtain ⟨e, t, hsteps, hrejected⟩ := steps_enter_advance_advance hb hp hrx hl hbad hi 1
    exact hsteps.trans (steps_reset hrejected.outside rfl)
  · obtain ⟨e, t, hsteps, hrejected⟩ := steps_enter_advance_advance hb hp hrx hl hbad hi 2
    have hdrain := (hrejected.setInputs (.reset :: rest)).issueDrain
    have hreads : s.history ++ [.rx p.readLen, .rx p.readLen] = s.history ++ [.rx p.readLen] ++ [.rx p.readLen] :=
      List.append_cons ..
    rw [hreads]
    exact (hsteps.trans (hrejected.steps_advance rfl 1)).trans (steps_reset hdrain.outside rfl)

end Sys2Proof.Machine
end
